-- ==== Sys2Proof/Word.lean ====
section
/-! DEFINITION. The word types of the QRE and the closed types of the values it handles: bytes, port words, addresses,
segment modes, modules, stages and error codes. Types only: every function on them stands in Decode.lean or Machine/. -/

namespace Sys2Proof

/-- A byte: a character of TEXT, a codeword, an element of GF(256) (R39, R110, R170). -/
abbrev Byte := BitVec 8

/-- A port word: a register read whole, a command word (R20, R90). -/
abbrev Word := BitVec 32

/-- A byte address on the host port (R60). -/
abbrev Addr := BitVec 20

/-- The three segment modes (R111). The ordinals 0, 1, 2 of SEGT.MODE follow this order; 3 cannot be written (R122). -/
inductive Mode where
  | numeric
  | alphanumeric
  | byte
  deriving DecidableEq, Repr, Inhabited

/-- One entry of SEGT (R41): the slice TEXT[start .. start + count) in one mode. -/
structure Segment where
  mode : Mode
  start : Nat
  count : Nat
  deriving DecidableEq, Repr, Inhabited

/-- The provenance of a module (R45). -/
inductive Provenance where
  /-- code 0: allocated, claimed by no stamp -/
  | reservedUnused
  /-- code 1: finder, separator, timing, alignment, dark module -/
  | function
  /-- code 2: format and version information -/
  | format
  /-- code 3: everything else, the remainder-bit modules among them -/
  | data
  deriving DecidableEq, Repr, Inhabited

/-- One module of the matrix (R45): Dark or Light, and where it came from. -/
structure QrModule where
  dark : Bool
  prov : Provenance
  deriving DecidableEq, Repr, Inhabited

/-- A matrix, row by row from the top, each row from the left (R8, R45). -/
abbrev Grid := List (List QrModule)

/-- The sequencer's stages, STAGE 0..8 in this order (R24). -/
inductive Stage where
  | idle
  | segmented
  | versioned
  | packed
  | coded
  | built
  | placed
  | masked
  | final
  deriving DecidableEq, Repr, Inhabited

/-- The error codes, 0..9 in this order (R305). -/
inductive ErrCode where
  /-- 0: no error is recorded -/
  | noError
  /-- 1: kept, raised by no rule (R120) -/
  | emptyOrUnsupportedInput
  /-- 2: no version 1..40 fits (R138) -/
  | dataTooLong
  /-- 3: the forced version does not fit (R138) -/
  | versionTooSmall
  /-- 4: a length two tables or stages must agree on differs (R306) -/
  | internalLengthFault
  /-- 5: a table lookup out of range (R307) -/
  | internalTableFault
  /-- 6: the word is none of the 17 commands (R309) -/
  | illegalCommand
  /-- 7: STAGE is not the stage the command requires (R308) -/
  | sequenceFault
  /-- 8: a parameter outside its range (R311) -/
  | badParameter
  /-- 9: division by zero, or the logarithm of zero (R181, R183) -/
  | gfDomainFault
  deriving DecidableEq, Repr, Inhabited

end Sys2Proof
end

