-- ==== Sys2Proof/Syntax.lean ====
section
/-! DEFINITION. The commands of the QRE: one constructor per row of spec/opcode_table.json (R93). -/

namespace Sys2Proof

/-- The 17 commands (R93). Operands that are field elements are bytes; exponents and counts are numbers, and WellFormed.lean
says which of them the 8-bit operand field holds (R90; log 9). -/
inductive Instr where
  /-- NOP, OP 0x00 (R290) -/
  | nop
  /-- CLEAR, OP 0x01 (R292) -/
  | clear
  /-- ENCODE, OP 0x02 (R295) -/
  | encode
  /-- SEGMENT, OP 0x10 (R119) -/
  | segment
  /-- VSELECT, OP 0x11 (R138) -/
  | vselect
  /-- PACK, OP 0x12 (R160) -/
  | pack
  /-- RSENC, OP 0x13 (R205) -/
  | rsenc
  /-- MBUILD, OP 0x14 (R228) -/
  | mbuild
  /-- MPLACE, OP 0x15 (R234) -/
  | mplace
  /-- MSELECT, OP 0x16 (R260) -/
  | mselect
  /-- FORMAT, OP 0x17 (R270) -/
  | format
  /-- GFMUL, OP 0x20: A and B are field elements (R180) -/
  | gfmul (a b : Byte)
  /-- GFDIV, OP 0x21: A is the dividend, B the divisor (R181) -/
  | gfdiv (a b : Byte)
  /-- GFEXP, OP 0x22: A is an exponent (R182) -/
  | gfexp (exponent : Nat)
  /-- GFLOG, OP 0x23: A is a field element (R183) -/
  | gflog (a : Byte)
  /-- RSGEN, OP 0x28: A is the degree E (R207) -/
  | rsgen (degree : Nat)
  /-- RSBLK, OP 0x29: A is the number K of data bytes, B the number E of ecc bytes (R208) -/
  | rsblk (dataCount eccCount : Nat)
  deriving DecidableEq, Repr

end Sys2Proof
end

