-- ==== Sys2Proof/WellFormed.lean ====
section
/-! DEFINITION. Which commands have a word: an exponent or a count must fit the 8-bit operand field it stands in (R90). A
count outside the range its command accepts is well formed all the same: it is decoded, and raises BadParameter when the
command runs (R92). -/

namespace Sys2Proof

/-- A number the 8-bit operand fields A and B can hold (R90). -/
def fitsOperandField (n : Nat) : Bool := decide (n < 256)

/-- Every operand that is a number fits its field. -/
def Instr.wellFormed : Instr → Bool
  | .nop | .clear | .encode => true
  | .segment | .vselect | .pack | .rsenc | .mbuild | .mplace | .mselect | .format => true
  | .gfmul _ _ | .gfdiv _ _ | .gflog _ => true
  | .gfexp exponent => fitsOperandField exponent
  | .rsgen degree => fitsOperandField degree
  | .rsblk dataCount eccCount => fitsOperandField dataCount && fitsOperandField eccCount

/-- The check as a proposition. -/
abbrev Instr.WellFormed (i : Instr) : Prop := i.wellFormed = true

end Sys2Proof
end

