-- ==== Sys2Proof/Decode.lean ====
section
/-! DEFINITION. Decoding and encoding of the 32-bit command word, format CMD (R90 to R94). Decoding is total on all 2^32
words: 17 families of legal words, every other word rejected with the reason R92 gives. -/

namespace Sys2Proof

/-- Why a word is ILLEGAL (R92). The machine raises the one error IllegalCommand whichever it is (R309). -/
inductive DecodeError where
  /-- OP is not in the table of R93 -/
  | unknownOpcode
  /-- bits 31..24 are not 0 -/
  | nonzeroZ
  /-- the command takes no A operand and A is not 0 -/
  | nonzeroA
  /-- the command takes no B operand and B is not 0 -/
  | nonzeroB
  deriving DecidableEq, Repr

/-- The operands a command takes (R92, R93), with the command they make. -/
inductive OperandForm where
  | none (command : Instr)
  | a (command : Byte → Instr)
  | ab (command : Byte → Byte → Instr)

/-- OP, bits 7..0 (R90). -/
def opField (w : Word) : Byte := w.extractLsb' 0 8

/-- A, bits 15..8 (R90). -/
def aField (w : Word) : Byte := w.extractLsb' 8 8

/-- B, bits 23..16 (R90). -/
def bField (w : Word) : Byte := w.extractLsb' 16 8

/-- Z, bits 31..24 (R90). -/
def zField (w : Word) : Byte := w.extractLsb' 24 8

/-- The opcode map of R93. -/
def commandOf (op : Byte) : Option OperandForm :=
  match op.toNat with
  | 0x00 => some (.none .nop)
  | 0x01 => some (.none .clear)
  | 0x02 => some (.none .encode)
  | 0x10 => some (.none .segment)
  | 0x11 => some (.none .vselect)
  | 0x12 => some (.none .pack)
  | 0x13 => some (.none .rsenc)
  | 0x14 => some (.none .mbuild)
  | 0x15 => some (.none .mplace)
  | 0x16 => some (.none .mselect)
  | 0x17 => some (.none .format)
  | 0x20 => some (.ab .gfmul)
  | 0x21 => some (.ab .gfdiv)
  | 0x22 => some (.a fun a => .gfexp a.toNat)
  | 0x23 => some (.a .gflog)
  | 0x28 => some (.a fun a => .rsgen a.toNat)
  | 0x29 => some (.ab fun a b => .rsblk a.toNat b.toNat)
  | _ => none

/-- `decode(w)` (R92): OP first, then Z, then the operand fields the command does not take. -/
def decode (w : Word) : Except DecodeError Instr :=
  match commandOf (opField w) with
  | none => .error .unknownOpcode
  | some form =>
    if zField w ≠ 0 then .error .nonzeroZ
    else match form with
      | .none command =>
        if aField w ≠ 0 then .error .nonzeroA
        else if bField w ≠ 0 then .error .nonzeroB
        else .ok command
      | .a command =>
        if bField w ≠ 0 then .error .nonzeroB
        else .ok (command (aField w))
      | .ab command => .ok (command (aField w) (bField w))

/-- The OP field of a command's word (R93). -/
def opcode : Instr → Byte
  | .nop => 0x00
  | .clear => 0x01
  | .encode => 0x02
  | .segment => 0x10
  | .vselect => 0x11
  | .pack => 0x12
  | .rsenc => 0x13
  | .mbuild => 0x14
  | .mplace => 0x15
  | .mselect => 0x16
  | .format => 0x17
  | .gfmul _ _ => 0x20
  | .gfdiv _ _ => 0x21
  | .gfexp _ => 0x22
  | .gflog _ => 0x23
  | .rsgen _ => 0x28
  | .rsblk _ _ => 0x29

/-- The operand fields A and B of a command's word, 0 where it takes none (R92, R93). -/
def operandFields : Instr → Byte × Byte
  | .nop | .clear | .encode => (0, 0)
  | .segment | .vselect | .pack | .rsenc | .mbuild | .mplace | .mselect | .format => (0, 0)
  | .gfmul a b => (a, b)
  | .gfdiv a b => (a, b)
  | .gfexp exponent => (BitVec.ofNat 8 exponent, 0)
  | .gflog a => (a, 0)
  | .rsgen degree => (BitVec.ofNat 8 degree, 0)
  | .rsblk dataCount eccCount => (BitVec.ofNat 8 dataCount, BitVec.ofNat 8 eccCount)

/-- The mask of a command (R92): the bits of its word that are fixed. The match is OP in all three forms. -/
def matchMask : Instr → Word
  | .nop | .clear | .encode => 0xFFFFFFFF
  | .segment | .vselect | .pack | .rsenc | .mbuild | .mplace | .mselect | .format => 0xFFFFFFFF
  | .gfexp _ | .gflog _ | .rsgen _ => 0xFFFF00FF
  | .gfmul _ _ | .gfdiv _ _ | .rsblk _ _ => 0xFF0000FF

/-- The command word: Z = 0, B, A, OP from the most significant byte down (R90). -/
def encode (i : Instr) : Word :=
  (0 : Byte) ++ (operandFields i).2 ++ (operandFields i).1 ++ opcode i

/-- The command the decoder reads from a word given as a number whose low `nbits` bits count. -/
def decodeTableWord (nbits w : Nat) : Option Instr :=
  match decode (BitVec.ofNat 32 (w % 2 ^ nbits)) with
  | .ok i => some i
  | .error _ => none

end Sys2Proof
end

