-- ==== Sys2Proof/Config.lean ====
section
/-! DEFINITION. What an implementation fixes: the sizes of R5, and the FREE VALUES, opaque constants about which nothing can
be proved. T_CMD (R341) has no constant here: no rule reads it. -/

namespace Sys2Proof

/-- TEXT_MAX (R5): the size of TEXT in bytes. -/
def Config.textMax : Nat := 8192

/-- VER_MAX (R5): the largest version. -/
def Config.verMax : Nat := 40

/-- ECC_MAX (R5): the largest number of ecc codewords of a block. -/
def Config.eccMax : Nat := 30

/-- FREE VALUE. The k-th byte a host read draws where the byte it reads is unspecified (R47; log 4). -/
opaque Config.freeByte : Nat → Byte

/-- FREE VALUE. What the engine finds in a byte of TEXT, RSIN, DCW or CW that holds nothing, by the number of resets and the
byte's port address (R47, R330, R336 H1 and H2; log 5). -/
opaque Config.ramByte : Nat → Nat → Byte

/-- FREE VALUE. What the engine finds in an entry of SEGT that holds nothing, by the number of resets and the index (R47;
log 6). No run reaches such a read. -/
opaque Config.ramSegment : Nat → Nat → Segment

/-- FREE VALUE. What the engine finds in a module that holds nothing, by the number of resets, row and column (R47; log 6).
No run reaches such a read. -/
opaque Config.ramModule : Nat → Nat → Nat → QrModule

/-- FREE VALUE. The value of a character that lies outside the set of its segment's mode (R111 gives none; log 6). No run
reaches it. -/
opaque Config.noCharValue : Mode → Byte → Nat

end Sys2Proof
end

