-- ==== Sys2Proof/Machine/State.lean ====
section
/-! DEFINITION. The state of the QRE as plain data, its two stop types, and the state after reset. The registers are those of
R20 to R38, the buffers those of R39 to R46; the last four fields of State are the model's own (log 1, 3, 4, 5). -/

namespace Sys2Proof.Machine

/-- Why a step could stop with a fault: never. The QRE has no stuck state and no undefined behaviour: every transaction in
every state has a defined response (R336, R340), an error is a NEXT state with ERRCODE written (R310), and a refused port
access is the response ERR (R66, R321). So no constructor stands here, and no meaning raises one. -/
inductive Fault where
  deriving DecidableEq, Repr

/-- Why a step could be refused. -/
inductive Refusal where
  /-- Raised by exec for an instruction that has no meaning yet: none is left. Safe: the model stops where the hardware goes
  on. -/
  | notModelled (mnemonic : String)
  deriving DecidableEq, Repr

/-- RAM bytes the host has written, by port address: TEXT at 0x02000 and RSIN at 0x00300 (R64). An address that is not listed
holds NOTHING: its contents are unspecified (R47). Canonical form: addresses strictly rising (`Memory.wf`). -/
abbrev Memory := List Host.Cell

/-- ERRINFO (R23): the opcode of the command that raised and the stage at that moment. -/
structure ErrInfo where
  op : Byte
  stage : Stage
  deriving DecidableEq, Repr

/-- The two access sizes of the port, 1 and 4 bytes (R60, R65). -/
inductive AccessSize where
  | one
  | four
  deriving DecidableEq, Repr

/-- A port transaction (R60): MemRead(addr, n), or MemWrite(addr, n, v) with v of 8·n bits. -/
inductive Transaction where
  | read (addr : Addr) (size : AccessSize)
  | writeByte (addr : Addr) (value : Byte)
  | writeWord (addr : Addr) (value : Word)
  deriving DecidableEq, Repr

/-- What the outside does to the block: a port transaction, or a pulse on the reset input (R60, R330). -/
inductive HostEvent where
  | transact (t : Transaction)
  | reset
  deriving DecidableEq, Repr

/-- The response of a transaction (R60): OK to a write, OK with a value of 8·n bits to a read, or ERR. -/
inductive Response where
  | ok
  | okByte (value : Byte)
  | okWord (value : Word)
  | err
  deriving DecidableEq, Repr

/-- The state of the QRE. -/
structure State where
  /-- STAGE, the sequencer's stage (R24) -/
  stage : Stage
  /-- ERRCODE (R23, R305) -/
  errcode : ErrCode
  /-- ERRINFO (R23) -/
  errinfo : ErrInfo
  /-- LEVEL: 0 L, 1 M, 2 Q, 3 H (R27) -/
  level : BitVec 2
  /-- FVER: the forced version, 0 for none (R28) -/
  fver : BitVec 6
  /-- TLEN: the text's length in bytes (R29) -/
  tlen : BitVec 14
  /-- VER (R30) -/
  ver : BitVec 6
  /-- SIDE (R31) -/
  side : BitVec 8
  /-- MASK (R32) -/
  mask : BitVec 3
  /-- NSEG (R33) -/
  nseg : BitVec 14
  /-- BITLEN (R34) -/
  bitlen : BitVec 15
  /-- DLEN (R35) -/
  dlen : BitVec 12
  /-- CLEN (R35) -/
  clen : BitVec 12
  /-- NBLK (R35) -/
  nblk : BitVec 7
  /-- SCORE0..SCORE7 (R36) -/
  scores : Vector Word 8
  /-- GFRES (R37) -/
  gfres : Byte
  /-- RSOUT[0..30) (R46) -/
  rsout : Vector Byte 30
  /-- the bytes of TEXT and RSIN the host has written (R40, R46) -/
  mem : Memory
  /-- SEGT, as far as it has been written (R41) -/
  segt : List Segment
  /-- DCW, as far as it has been written (R42) -/
  dcw : List Byte
  /-- ECCB by block, as far as it has been written (R43) -/
  eccb : List (List Byte)
  /-- CW, as far as it has been written (R44) -/
  cw : List Byte
  /-- MOD and PROV by row, as far as they have been written (R45) -/
  modules : Grid
  /-- MODEL'S OWN: what the host will do next, oldest first (log 1) -/
  pending : List HostEvent
  /-- MODEL'S OWN: the response to the last transaction (R60; log 3) -/
  response : Option Response
  /-- MODEL'S OWN: how many free bytes host reads have drawn (log 4) -/
  draws : Nat
  /-- MODEL'S OWN: how many resets there have been (log 5) -/
  resets : Nat
  deriving DecidableEq, Repr

/-- The state right after reset (R51, R330): registers and RSOUT 0, every buffer unspecified, which is nothing stored; and
nothing asked of the block yet (log 1, 3, 4, 5). -/
def State.reset : State where
  stage := .idle
  errcode := .noError
  errinfo := ⟨0, .idle⟩
  level := 0
  fver := 0
  tlen := 0
  ver := 0
  side := 0
  mask := 0
  nseg := 0
  bitlen := 0
  dlen := 0
  clen := 0
  nblk := 0
  scores := #v[0, 0, 0, 0, 0, 0, 0, 0]
  gfres := 0
  rsout := Vector.replicate 30 0
  mem := []
  segt := []
  dcw := []
  eccb := []
  cw := []
  modules := []
  pending := []
  response := none
  draws := 0
  resets := 0

end Sys2Proof.Machine
end

