-- ==== Sys2Proof/Machine/Flags.lean ====
section
/-! DEFINITION. The numeric codes of the closed types (R24, R305, R41, R45) and the two flags of STATUS, ERR and FINAL, which
are functions of other state (R22, R25). The QRE has no condition codes. -/

namespace Sys2Proof

/-- The number of a stage, 0..8 (R24). -/
def Stage.code : Stage → Nat
  | .idle => 0
  | .segmented => 1
  | .versioned => 2
  | .packed => 3
  | .coded => 4
  | .built => 5
  | .placed => 6
  | .masked => 7
  | .final => 8

/-- The number of an error, 0..9 (R305). -/
def ErrCode.code : ErrCode → Nat
  | .noError => 0
  | .emptyOrUnsupportedInput => 1
  | .dataTooLong => 2
  | .versionTooSmall => 3
  | .internalLengthFault => 4
  | .internalTableFault => 5
  | .illegalCommand => 6
  | .sequenceFault => 7
  | .badParameter => 8
  | .gfDomainFault => 9

/-- The ordinal of a mode in SEGT.MODE (R41), which is also its rank in ties (R117). -/
def Mode.ordinal : Mode → Nat
  | .numeric => 0
  | .alphanumeric => 1
  | .byte => 2

/-- The provenance code (R45). -/
def Provenance.code : Provenance → Nat
  | .reservedUnused => 0
  | .function => 1
  | .format => 2
  | .data => 3

/-- The 32-bit SEGT entry MODE + 4·START + 65536·COUNT (R41, R69). -/
def Segment.entry (g : Segment) : Word :=
  BitVec.ofNat 32 (g.mode.ordinal + 4 * g.start + 65536 * g.count)

/-- The module's byte in the MOD window: bit 0 Dark, bits 2..1 provenance (R70). -/
def QrModule.byte (m : QrModule) : Byte :=
  BitVec.ofNat 8 (m.dark.toNat + 2 * m.prov.code)

namespace Machine

/-- ERR, STATUS[4]: an error is recorded (R22). -/
def errFlag (s : State) : Bool := s.errcode ≠ .noError

/-- FINAL, STATUS[5]: STAGE = 8 (R22). -/
def finalFlag (s : State) : Bool := s.stage = .final

/-- STATUS: STAGE in bits 3..0, ERR in bit 4, FINAL in bit 5 (R22). -/
def statusWord (s : State) : Word :=
  BitVec.ofNat 32 (s.stage.code + 16 * (errFlag s).toNat + 32 * (finalFlag s).toNat)

/-- ERRINFO: EOP in bits 7..0, ESTAGE in bits 11..8 (R23). -/
def errinfoWord (s : State) : Word :=
  BitVec.ofNat 32 (s.errinfo.op.toNat + 256 * s.errinfo.stage.code)

end Machine

end Sys2Proof
end

