-- ==== Sys2Proof/Machine/Ops.lean ====
section
/-! DEFINITION. The shared operations over the state: the cell memory, invalidation (R48), raising an error (R310) and
acknowledging it (R314), the stage test of the stage commands (R308), and reset (R330). -/

namespace Sys2Proof.Machine

/-- The canonical form of a memory: addresses strictly rising, so that equal memories are equal lists. An unlisted address
holds nothing (R47), so no entry could repeat what it reads as. -/
def Memory.wf : Memory → Bool
  | [] => true
  | [_] => true
  | (a, _) :: (b, v) :: rest => decide (a < b) && Memory.wf ((b, v) :: rest)

/-- The byte stored at address a, none if nothing was written there. -/
def Memory.load : Memory → Nat → Option Byte
  | [], _ => none
  | (b, v) :: rest, a => if a = b then some v else Memory.load rest a

/-- Store v at address a, keeping the canonical form. -/
def Memory.store : Memory → Nat → Byte → Memory
  | [], a, v => [(a, v)]
  | (b, w) :: rest, a, v =>
    if a < b then (a, v) :: (b, w) :: rest
    else if a = b then (a, v) :: rest
    else (b, w) :: Memory.store rest a v

/-- `invalidate()` (R48): STAGE and the result registers to 0. The buffers are not erased; at STAGE 0 their contents are
unspecified (R47). -/
def invalidate (s : State) : State :=
  { s with
    stage := .idle, ver := 0, side := 0, mask := 0, nseg := 0, bitlen := 0, dlen := 0, clen := 0, nblk := 0
    scores := #v[0, 0, 0, 0, 0, 0, 0, 0] }

/-- `raise E(op)` (R310): TAKING AN ERROR. ERRCODE and ERRINFO are written, with STAGE as it is now, then `invalidate()`.
Nothing is saved and nothing is vectored (R314). -/
def raise (e : ErrCode) (op : Byte) (s : State) : State :=
  invalidate { s with errcode := e, errinfo := ⟨op, s.stage⟩ }

/-- ENDING AN ERROR (R314), the common part of CLEAR (R292) and the start of ENCODE (R295): ERRCODE, ERRINFO to 0, then
`invalidate()`. Nothing is restored. -/
def acknowledge (s : State) : State :=
  invalidate { s with errcode := .noError, errinfo := ⟨0, .idle⟩ }

/-- The first test of every stage command: STAGE must be the stage before its target (R308). -/
def atStage (required : Stage) (op : Byte) (body : State → State) (s : State) : State :=
  if s.stage ≠ required then raise .sequenceFault op s else body s

/-- `reset()` (R330): the state of R51, with fresh unspecified contents. What the host will do next stays in `pending`; the
response of a transaction cut by reset is not defined (R331; log 2). -/
def hardReset (s : State) : State :=
  { State.reset with pending := s.pending, draws := s.draws, resets := s.resets + 1 }

end Sys2Proof.Machine
end

