-- ==== Sys2Proof/Machine/Operands.lean ====
section
/-! DEFINITION. Engine-side access to what the commands read: the buffers by index (R9, R79). A byte that holds nothing is a
free value (R47; log 5, log 6): the host never wrote it, or (for a result buffer) no run reaches the read. -/

namespace Sys2Proof.Machine

/-- Port address of TEXT[0] (R64). -/
def textBase : Nat := 0x02000

/-- Port address of RSIN[0] (R64). -/
def rsinBase : Nat := 0x00300

/-- Port address of DCW[0] (R64). -/
def dcwBase : Nat := 0x04000

/-- Port address of CW[0] (R64). -/
def cwBase : Nat := 0x05000

/-- TEXT[i] (R40). -/
def textAt (s : State) (i : Nat) : Byte :=
  (Memory.load s.mem (textBase + i)).getD (Config.ramByte s.resets (textBase + i))

/-- TEXT[from .. from + n). -/
def textSlice (s : State) (start n : Nat) : List Byte :=
  (List.range n).map fun k => textAt s (start + k)

/-- RSIN[0 .. n) (R46). -/
def rsinBytes (s : State) (n : Nat) : List Byte :=
  (List.range n).map fun i =>
    (Memory.load s.mem (rsinBase + i)).getD (Config.ramByte s.resets (rsinBase + i))

/-- SEGT[0 .. NSEG) (R41). -/
def segments (s : State) : List Segment :=
  (List.range s.nseg.toNat).map fun q => (s.segt[q]?).getD (Config.ramSegment s.resets q)

/-- DCW[0 .. DLEN) (R42). -/
def dataCodewords (s : State) : List Byte :=
  (List.range s.dlen.toNat).map fun i => (s.dcw[i]?).getD (Config.ramByte s.resets (dcwBase + i))

/-- CW[0 .. CLEN) (R44). -/
def codewords (s : State) : List Byte :=
  (List.range s.clen.toNat).map fun i => (s.cw[i]?).getD (Config.ramByte s.resets (cwBase + i))

/-- MOD[r][c] with PROV[r][c] of a grid, none outside it (R45). -/
def gridAt (g : Grid) (r c : Nat) : Option QrModule := (g[r]?).bind (·[c]?)

/-- The matrix for rows and columns below SIDE (R45). -/
def gridOf (s : State) : Grid :=
  (List.range s.side.toNat).map fun r =>
    (List.range s.side.toNat).map fun c => (gridAt s.modules r c).getD (Config.ramModule s.resets r c)

end Sys2Proof.Machine
end

