-- ==== Sys2Proof/Machine/Tables.lean ====
section
/-! DEFINITION. The constant tables of the Version Selector (R133, R134, R135) and the version arithmetic (R130, R131). They
are ROM, not state (R50). -/

namespace Sys2Proof.Machine

/-- SIDE(v) = 4·v + 17 (R130). -/
def sideOf (v : Nat) : Nat := 4 * v + 17

/-- The version class: 0 for 1..9, 1 for 10..26, 2 for 27..40 (R131). -/
def versionClass (v : Nat) : Nat := if v ≤ 9 then 0 else if v ≤ 26 then 1 else 2

/-- The count-indicator width W(m, v) in bits (R135). -/
def countWidth (m : Mode) (v : Nat) : Nat :=
  match m, versionClass v with
  | .numeric, 0 => 10
  | .numeric, 1 => 12
  | .numeric, _ => 14
  | .alphanumeric, 0 => 9
  | .alphanumeric, 1 => 11
  | .alphanumeric, _ => 13
  | .byte, 0 => 8
  | .byte, _ => 16

/-- A row of the per-version table (R133): the number of Data modules and the alignment coordinates. -/
structure VersionRow where
  rawmod : Nat
  alignment : List Nat
  deriving DecidableEq, Repr

/-- Versions 1 to 10 of the per-version table (R133). -/
def versionRows1 : List VersionRow := [
  ⟨208, []⟩,
  ⟨359, [6, 18]⟩,
  ⟨567, [6, 22]⟩,
  ⟨807, [6, 26]⟩,
  ⟨1079, [6, 30]⟩,
  ⟨1383, [6, 34]⟩,
  ⟨1568, [6, 22, 38]⟩,
  ⟨1936, [6, 24, 42]⟩,
  ⟨2336, [6, 26, 46]⟩,
  ⟨2768, [6, 28, 50]⟩]

/-- Versions 11 to 20 of the per-version table (R133). -/
def versionRows11 : List VersionRow := [
  ⟨3232, [6, 30, 54]⟩,
  ⟨3728, [6, 32, 58]⟩,
  ⟨4256, [6, 34, 62]⟩,
  ⟨4651, [6, 26, 46, 66]⟩,
  ⟨5243, [6, 26, 48, 70]⟩,
  ⟨5867, [6, 26, 50, 74]⟩,
  ⟨6523, [6, 30, 54, 78]⟩,
  ⟨7211, [6, 30, 56, 82]⟩,
  ⟨7931, [6, 30, 58, 86]⟩,
  ⟨8683, [6, 34, 62, 90]⟩]

/-- Versions 21 to 30 of the per-version table (R133). -/
def versionRows21 : List VersionRow := [
  ⟨9252, [6, 28, 50, 72, 94]⟩,
  ⟨10068, [6, 26, 50, 74, 98]⟩,
  ⟨10916, [6, 30, 54, 78, 102]⟩,
  ⟨11796, [6, 28, 54, 80, 106]⟩,
  ⟨12708, [6, 32, 58, 84, 110]⟩,
  ⟨13652, [6, 30, 58, 86, 114]⟩,
  ⟨14628, [6, 34, 62, 90, 118]⟩,
  ⟨15371, [6, 26, 50, 74, 98, 122]⟩,
  ⟨16411, [6, 30, 54, 78, 102, 126]⟩,
  ⟨17483, [6, 26, 52, 78, 104, 130]⟩]

/-- Versions 31 to 40 of the per-version table (R133). -/
def versionRows31 : List VersionRow := [
  ⟨18587, [6, 30, 56, 82, 108, 134]⟩,
  ⟨19723, [6, 34, 60, 86, 112, 138]⟩,
  ⟨20891, [6, 30, 58, 86, 114, 142]⟩,
  ⟨22091, [6, 34, 62, 90, 118, 146]⟩,
  ⟨23008, [6, 30, 54, 78, 102, 126, 150]⟩,
  ⟨24272, [6, 24, 50, 76, 102, 128, 154]⟩,
  ⟨25568, [6, 28, 54, 80, 106, 132, 158]⟩,
  ⟨26896, [6, 32, 58, 84, 110, 136, 162]⟩,
  ⟨28256, [6, 26, 54, 82, 110, 138, 166]⟩,
  ⟨29648, [6, 30, 58, 86, 114, 142, 170]⟩]

/-- The per-version table, version 1 first (R133). -/
def versionRows : List VersionRow := versionRows1 ++ versionRows11 ++ versionRows21 ++ versionRows31

/-- The row of version v; none outside 1..40 (R133). -/
def versionRow (v : Nat) : Option VersionRow := if v = 0 then none else versionRows[v - 1]?

/-- RAWMOD(v), the number of Data modules (R133). -/
def rawmod (v : Nat) : Option Nat := (versionRow v).map (·.rawmod)

/-- TOTCW(v) = RAWMOD(v) div 8, the total number of codewords (R133). -/
def totcw (v : Nat) : Option Nat := (rawmod v).map (· / 8)

/-- REMBITS(v) = RAWMOD(v) mod 8, the number of remainder bits (R133). -/
def rembits (v : Nat) : Option Nat := (rawmod v).map (· % 8)

/-- AP(v), the alignment coordinates; none of them for version 1 (R133, R221). -/
def alignmentCoordinates (v : Nat) : List Nat := ((versionRow v).map (·.alignment)).getD []

/-- An entry of BLKTAB (R134): E ecc codewords in every block, N1 blocks of K1 data codewords, then N2 blocks of K2. -/
structure BlkEntry where
  e : Nat
  n1 : Nat
  k1 : Nat
  n2 : Nat
  k2 : Nat
  deriving DecidableEq, Repr

/-- NBLK = N1 + N2 (R134). -/
def BlkEntry.nblk (t : BlkEntry) : Nat := t.n1 + t.n2

/-- DCAP = N1·K1 + N2·K2, the data codewords in all (R134). -/
def BlkEntry.dcap (t : BlkEntry) : Nat := t.n1 * t.k1 + t.n2 * t.k2

/-- Versions 1 to 10 of BLKTAB, each row by level L, M, Q, H (R134). -/
def blkRows1 : List (List BlkEntry) := [
  [⟨7, 1, 19, 0, 0⟩, ⟨10, 1, 16, 0, 0⟩, ⟨13, 1, 13, 0, 0⟩, ⟨17, 1, 9, 0, 0⟩],
  [⟨10, 1, 34, 0, 0⟩, ⟨16, 1, 28, 0, 0⟩, ⟨22, 1, 22, 0, 0⟩, ⟨28, 1, 16, 0, 0⟩],
  [⟨15, 1, 55, 0, 0⟩, ⟨26, 1, 44, 0, 0⟩, ⟨18, 2, 17, 0, 0⟩, ⟨22, 2, 13, 0, 0⟩],
  [⟨20, 1, 80, 0, 0⟩, ⟨18, 2, 32, 0, 0⟩, ⟨26, 2, 24, 0, 0⟩, ⟨16, 4, 9, 0, 0⟩],
  [⟨26, 1, 108, 0, 0⟩, ⟨24, 2, 43, 0, 0⟩, ⟨18, 2, 15, 2, 16⟩, ⟨22, 2, 11, 2, 12⟩],
  [⟨18, 2, 68, 0, 0⟩, ⟨16, 4, 27, 0, 0⟩, ⟨24, 4, 19, 0, 0⟩, ⟨28, 4, 15, 0, 0⟩],
  [⟨20, 2, 78, 0, 0⟩, ⟨18, 4, 31, 0, 0⟩, ⟨18, 2, 14, 4, 15⟩, ⟨26, 4, 13, 1, 14⟩],
  [⟨24, 2, 97, 0, 0⟩, ⟨22, 2, 38, 2, 39⟩, ⟨22, 4, 18, 2, 19⟩, ⟨26, 4, 14, 2, 15⟩],
  [⟨30, 2, 116, 0, 0⟩, ⟨22, 3, 36, 2, 37⟩, ⟨20, 4, 16, 4, 17⟩, ⟨24, 4, 12, 4, 13⟩],
  [⟨18, 2, 68, 2, 69⟩, ⟨26, 4, 43, 1, 44⟩, ⟨24, 6, 19, 2, 20⟩, ⟨28, 6, 15, 2, 16⟩]]

/-- Versions 11 to 20 of BLKTAB, each row by level L, M, Q, H (R134). -/
def blkRows11 : List (List BlkEntry) := [
  [⟨20, 4, 81, 0, 0⟩, ⟨30, 1, 50, 4, 51⟩, ⟨28, 4, 22, 4, 23⟩, ⟨24, 3, 12, 8, 13⟩],
  [⟨24, 2, 92, 2, 93⟩, ⟨22, 6, 36, 2, 37⟩, ⟨26, 4, 20, 6, 21⟩, ⟨28, 7, 14, 4, 15⟩],
  [⟨26, 4, 107, 0, 0⟩, ⟨22, 8, 37, 1, 38⟩, ⟨24, 8, 20, 4, 21⟩, ⟨22, 12, 11, 4, 12⟩],
  [⟨30, 3, 115, 1, 116⟩, ⟨24, 4, 40, 5, 41⟩, ⟨20, 11, 16, 5, 17⟩, ⟨24, 11, 12, 5, 13⟩],
  [⟨22, 5, 87, 1, 88⟩, ⟨24, 5, 41, 5, 42⟩, ⟨30, 5, 24, 7, 25⟩, ⟨24, 11, 12, 7, 13⟩],
  [⟨24, 5, 98, 1, 99⟩, ⟨28, 7, 45, 3, 46⟩, ⟨24, 15, 19, 2, 20⟩, ⟨30, 3, 15, 13, 16⟩],
  [⟨28, 1, 107, 5, 108⟩, ⟨28, 10, 46, 1, 47⟩, ⟨28, 1, 22, 15, 23⟩, ⟨28, 2, 14, 17, 15⟩],
  [⟨30, 5, 120, 1, 121⟩, ⟨26, 9, 43, 4, 44⟩, ⟨28, 17, 22, 1, 23⟩, ⟨28, 2, 14, 19, 15⟩],
  [⟨28, 3, 113, 4, 114⟩, ⟨26, 3, 44, 11, 45⟩, ⟨26, 17, 21, 4, 22⟩, ⟨26, 9, 13, 16, 14⟩],
  [⟨28, 3, 107, 5, 108⟩, ⟨26, 3, 41, 13, 42⟩, ⟨30, 15, 24, 5, 25⟩, ⟨28, 15, 15, 10, 16⟩]]

/-- Versions 21 to 30 of BLKTAB, each row by level L, M, Q, H (R134). -/
def blkRows21 : List (List BlkEntry) := [
  [⟨28, 4, 116, 4, 117⟩, ⟨26, 17, 42, 0, 0⟩, ⟨28, 17, 22, 6, 23⟩, ⟨30, 19, 16, 6, 17⟩],
  [⟨28, 2, 111, 7, 112⟩, ⟨28, 17, 46, 0, 0⟩, ⟨30, 7, 24, 16, 25⟩, ⟨24, 34, 13, 0, 0⟩],
  [⟨30, 4, 121, 5, 122⟩, ⟨28, 4, 47, 14, 48⟩, ⟨30, 11, 24, 14, 25⟩, ⟨30, 16, 15, 14, 16⟩],
  [⟨30, 6, 117, 4, 118⟩, ⟨28, 6, 45, 14, 46⟩, ⟨30, 11, 24, 16, 25⟩, ⟨30, 30, 16, 2, 17⟩],
  [⟨26, 8, 106, 4, 107⟩, ⟨28, 8, 47, 13, 48⟩, ⟨30, 7, 24, 22, 25⟩, ⟨30, 22, 15, 13, 16⟩],
  [⟨28, 10, 114, 2, 115⟩, ⟨28, 19, 46, 4, 47⟩, ⟨28, 28, 22, 6, 23⟩, ⟨30, 33, 16, 4, 17⟩],
  [⟨30, 8, 122, 4, 123⟩, ⟨28, 22, 45, 3, 46⟩, ⟨30, 8, 23, 26, 24⟩, ⟨30, 12, 15, 28, 16⟩],
  [⟨30, 3, 117, 10, 118⟩, ⟨28, 3, 45, 23, 46⟩, ⟨30, 4, 24, 31, 25⟩, ⟨30, 11, 15, 31, 16⟩],
  [⟨30, 7, 116, 7, 117⟩, ⟨28, 21, 45, 7, 46⟩, ⟨30, 1, 23, 37, 24⟩, ⟨30, 19, 15, 26, 16⟩],
  [⟨30, 5, 115, 10, 116⟩, ⟨28, 19, 47, 10, 48⟩, ⟨30, 15, 24, 25, 25⟩, ⟨30, 23, 15, 25, 16⟩]]

/-- Versions 31 to 40 of BLKTAB, each row by level L, M, Q, H (R134). -/
def blkRows31 : List (List BlkEntry) := [
  [⟨30, 13, 115, 3, 116⟩, ⟨28, 2, 46, 29, 47⟩, ⟨30, 42, 24, 1, 25⟩, ⟨30, 23, 15, 28, 16⟩],
  [⟨30, 17, 115, 0, 0⟩, ⟨28, 10, 46, 23, 47⟩, ⟨30, 10, 24, 35, 25⟩, ⟨30, 19, 15, 35, 16⟩],
  [⟨30, 17, 115, 1, 116⟩, ⟨28, 14, 46, 21, 47⟩, ⟨30, 29, 24, 19, 25⟩, ⟨30, 11, 15, 46, 16⟩],
  [⟨30, 13, 115, 6, 116⟩, ⟨28, 14, 46, 23, 47⟩, ⟨30, 44, 24, 7, 25⟩, ⟨30, 59, 16, 1, 17⟩],
  [⟨30, 12, 121, 7, 122⟩, ⟨28, 12, 47, 26, 48⟩, ⟨30, 39, 24, 14, 25⟩, ⟨30, 22, 15, 41, 16⟩],
  [⟨30, 6, 121, 14, 122⟩, ⟨28, 6, 47, 34, 48⟩, ⟨30, 46, 24, 10, 25⟩, ⟨30, 2, 15, 64, 16⟩],
  [⟨30, 17, 122, 4, 123⟩, ⟨28, 29, 46, 14, 47⟩, ⟨30, 49, 24, 10, 25⟩, ⟨30, 24, 15, 46, 16⟩],
  [⟨30, 4, 122, 18, 123⟩, ⟨28, 13, 46, 32, 47⟩, ⟨30, 48, 24, 14, 25⟩, ⟨30, 42, 15, 32, 16⟩],
  [⟨30, 20, 117, 4, 118⟩, ⟨28, 40, 47, 7, 48⟩, ⟨30, 43, 24, 22, 25⟩, ⟨30, 10, 15, 67, 16⟩],
  [⟨30, 19, 118, 6, 119⟩, ⟨28, 18, 47, 31, 48⟩, ⟨30, 34, 24, 34, 25⟩, ⟨30, 20, 15, 61, 16⟩]]

/-- BLKTAB, version 1 first, each row by level (R134). -/
def blkRows : List (List BlkEntry) := blkRows1 ++ blkRows11 ++ blkRows21 ++ blkRows31

/-- BLKTAB(v, ℓ); none where the version lies outside 1..40, which is "table lookup out of range" (R134, R307). -/
def blktab (v : Nat) (level : Nat) : Option BlkEntry :=
  if v = 0 then none else (blkRows[v - 1]?).bind (·[level]?)

end Sys2Proof.Machine
end

