-- ==== Sys2Proof/Machine/MatrixBuilder.lean ====
section
/-! DEFINITION. The Matrix Builder (R215 to R236): stamps, reservations, the placement traversal, and the commands MBUILD
(R228) and MPLACE (R234). -/

namespace Sys2Proof.Machine

/-- Replace the module at (r, c); outside the grid nothing changes. -/
def gridSet (g : Grid) (r c : Nat) (m : QrModule) : Grid := g.modify r fun row => row.set c m

/-- One call of `stamp(r, c, dark, p)` (R216). Coordinates may lie outside the matrix. -/
structure Stamp where
  row : Int
  col : Int
  dark : Bool
  prov : Provenance
  deriving DecidableEq, Repr

/-- `stamp` (R216): clipped at the matrix edge, and a module that is claimed already stays as it is. -/
def applyStamp (n : Nat) (g : Grid) (st : Stamp) : Grid :=
  if st.row < 0 ∨ (n : Int) ≤ st.row ∨ st.col < 0 ∨ (n : Int) ≤ st.col then g
  else match gridAt g st.row.toNat st.col.toNat with
    | some m =>
      if m.prov ≠ .reservedUnused then g
      else gridSet g st.row.toNat st.col.toNat ⟨st.dark, st.prov⟩
    | none => g

/-- −k, .., k. -/
def span (k : Nat) : List Int := (List.range (2 * k + 1)).map fun i => (i : Int) - k

/-- max(|dr|, |dc|), the ring a module lies on. -/
def ring (dr dc : Int) : Nat := max dr.natAbs dc.natAbs

/-- The (2k+1) × (2k+1) square round a centre, each module given by its ring. -/
def squareStamps (k : Nat) (center : Int × Int) (stampOf : Int → Int → Nat → List Stamp) : List Stamp :=
  (span k).flatMap fun dr => (span k).flatMap fun dc =>
    stampOf (center.1 + dr) (center.2 + dc) (ring dr dc)

/-- The finder centres: top-left, top-right, bottom-left (R217). -/
def finderCenters (n : Nat) : List (Int × Int) := [(3, 3), (3, (n : Int) - 4), ((n : Int) - 4, 3)]

/-- A finder pattern: all Dark but the ring at distance 2 (R217). -/
def finderStamps (center : Int × Int) : List Stamp :=
  squareStamps 3 center fun r c d => [⟨r, c, d ≠ 2, .function⟩]

/-- A separator: the ring at distance 4, Light (R218). -/
def separatorStamps (center : Int × Int) : List Stamp :=
  squareStamps 4 center fun r c d => if d = 4 then [⟨r, c, false, .function⟩] else []

/-- The timing patterns on row 6 and column 6, Dark at even index, i in 8..n−9 (R219). -/
def timingStamps (n : Nat) : List Stamp :=
  (List.range' 8 (n - 16)).flatMap fun i =>
    [⟨6, i, i % 2 = 0, .function⟩, ⟨i, 6, i % 2 = 0, .function⟩]

/-- An alignment pattern: all Dark but the ring at distance 1 (R220). -/
def alignmentStamps (center : Int × Int) : List Stamp :=
  squareStamps 2 center fun r c d => [⟨r, c, d ≠ 1, .function⟩]

/-- The alignment centres: all pairs of coordinates but the three on finder patterns (R222). -/
def alignmentCenters (n : Nat) (coords : List Nat) : List (Int × Int) :=
  coords.flatMap fun ar => (coords.filter fun ac =>
    ¬((ar = 6 ∧ ac = 6) ∨ (ar = 6 ∧ ac = n - 7) ∨ (ar = n - 7 ∧ ac = 6))).map fun ac => ((ar : Int), (ac : Int))

/-- The dark module (R223). -/
def darkModule (n : Nat) : Stamp := ⟨(n : Int) - 8, 8, true, .function⟩

/-- FPOS1(i), i = 0..14 (R224). -/
def formatPositions1 : List (Nat × Nat) :=
  [(0, 8), (1, 8), (2, 8), (3, 8), (4, 8), (5, 8), (7, 8), (8, 8), (8, 7), (8, 5), (8, 4), (8, 3), (8, 2), (8, 1), (8, 0)]

/-- FPOS2(i), i = 0..14 (R224). -/
def formatPositions2 (n : Nat) : List (Nat × Nat) :=
  [(8, n - 1), (8, n - 2), (8, n - 3), (8, n - 4), (8, n - 5), (8, n - 6), (8, n - 7), (8, n - 8),
   (n - 7, 8), (n - 6, 8), (n - 5, 8), (n - 4, 8), (n - 3, 8), (n - 2, 8), (n - 1, 8)]

/-- VPOS1(i), i = 0..17 (R225). -/
def versionPositions1 (n : Nat) : List (Nat × Nat) :=
  (List.range 18).map fun i => (i / 3, n - 11 + i % 3)

/-- VPOS2(i), i = 0..17 (R225). -/
def versionPositions2 (n : Nat) : List (Nat × Nat) :=
  (List.range 18).map fun i => (n - 11 + i % 3, i / 3)

/-- The positions of the format information, both copies (R224). -/
def formatPositions (n : Nat) : List (Nat × Nat) := formatPositions1 ++ formatPositions2 n

/-- The positions of the version information, both blocks; none for v ≤ 6 (R225). -/
def versionPositions (v n : Nat) : List (Nat × Nat) :=
  if 7 ≤ v then versionPositions1 n ++ versionPositions2 n else []

/-- A reserved module: Light, Format (R224, R225). -/
def reservation (p : Nat × Nat) : Stamp := ⟨p.1, p.2, false, .format⟩

/-- All stamps of MBUILD in the order of R227. -/
def allStamps (v n : Nat) : List Stamp :=
  (finderCenters n).flatMap (fun c => finderStamps c ++ separatorStamps c)
    ++ timingStamps n
    ++ (alignmentCenters n (alignmentCoordinates v)).flatMap alignmentStamps
    ++ [darkModule n]
    ++ (formatPositions n).map reservation
    ++ (versionPositions v n).map reservation

/-- The allocated grid: n × n, Light, Reserved-unused (R215). -/
def emptyGrid (n : Nat) : Grid := List.replicate n (List.replicate n ⟨false, .reservedUnused⟩)

/-- A module no stamp has claimed becomes Data (R226). -/
def claimData (m : QrModule) : QrModule :=
  if m.prov = .reservedUnused then { m with prov := .data } else m

/-- The grid after all stamps, unclaimed modules Data (R215 to R227). -/
def builtGrid (v n : Nat) : Grid :=
  ((allStamps v n).foldl (applyStamp n) (emptyGrid n)).map (·.map claimData)

/-- The number of Data modules of a grid (R228). -/
def dataCount (g : Grid) : Nat := (g.map fun row => row.countP fun m => m.prov = .data).sum

/-- MBUILD after the stage test (R228). -/
def mbuildBody (s : State) : State :=
  let v := s.ver.toNat
  let n := s.side.toNat
  match rawmod v with
  | none => raise .internalTableFault 0x14 s
  | some modules =>
    if n ≠ sideOf v then raise .internalTableFault 0x14 s
    else if dataCount (builtGrid v n) ≠ modules then raise .internalLengthFault 0x14 s
    else { s with modules := builtGrid v n, stage := .built }

/-- MBUILD as a function of the state (R228). -/
def runMbuild (s : State) : State := atStage .coded 0x14 mbuildBody s

/-- MBUILD (R228). -/
def execMbuild (s : State) : Host.Outcome State Fault Refusal := .next (runMbuild s)

/-- The rows of a strip in the order of the traversal: from the bottom if `up` (R232). -/
def stripRows (n : Nat) (up : Bool) : List Nat :=
  if up then (List.range n).reverse else List.range n

/-- The strips from the right column `right` on (R232): in each row the right column comes first; no strip contains column 6;
the direction flips at every strip. `fuel` bounds the number of strips. -/
def strips (n : Nat) : (fuel : Nat) → (right : Nat) → (up : Bool) → List (Nat × Nat)
  | 0, _, _ => []
  | fuel + 1, right, up =>
    if right < 1 then []
    else
      let right' := if right = 6 then 5 else right
      (stripRows n up).flatMap (fun r => [(r, right'), (r, right' - 1)])
        ++ (if right' < 2 then [] else strips n fuel (right' - 2) (!up))

/-- The modules of the traversal in order, Data or not (R232). -/
def traversal (n : Nat) : List (Nat × Nat) := strips n n (n - 1) true

/-- The bits of the codeword stream, each byte's most significant bit first (R231). -/
def streamBits (cw : List Byte) : List Bool :=
  cw.flatMap fun b => (List.range 8).map fun i => b.getLsbD (7 - i)

/-- The next bit of the stream, 0 where it is exhausted (R231). -/
def nextBit (bits : List Bool) : Bool := bits.headD false

/-- `traverse()` (R232): along the positions every Data module takes the next bit; the number is how many took one. -/
def placeBits : List (Nat × Nat) → List Bool → Grid → Nat → Grid × Nat
  | [], _, g, j => (g, j)
  | (r, c) :: rest, bits, g, j =>
    match gridAt g r c with
    | some m =>
      if m.prov = .data then placeBits rest bits.tail (gridSet g r c { m with dark := nextBit bits }) (j + 1)
      else placeBits rest bits g j
    | none => placeBits rest bits g j

/-- MPLACE after the stage test (R234). -/
def mplaceBody (s : State) : State :=
  let placed := placeBits (traversal s.side.toNat) (streamBits (codewords s)) (gridOf s) 0
  match rembits s.ver.toNat with
  | none => raise .internalTableFault 0x15 s
  | some remainder =>
    if placed.2 ≠ 8 * s.clen.toNat + remainder then raise .internalLengthFault 0x15 s
    else { s with modules := placed.1, stage := .placed }

/-- MPLACE as a function of the state (R234). -/
def runMplace (s : State) : State := atStage .built 0x15 mplaceBody s

/-- MPLACE (R234). -/
def execMplace (s : State) : Host.Outcome State Fault Refusal := .next (runMplace s)

end Sys2Proof.Machine
end

