-- ==== Sys2Proof/Machine/FormatInfo.lean ====
section
/-! DEFINITION. The Format/Version Info Encoder (R271 to R281): the BCH words, their placement, and the command FORMAT
(R270). -/

namespace Sys2Proof.Machine

/-- The level code LC on the LEVEL ordinal: L 01, M 00, Q 11, H 10 (R272). -/
def levelCode (level : Nat) : Nat :=
  match level with
  | 0 => 1
  | 1 => 0
  | 2 => 3
  | _ => 2

/-- fdata = 8·LC(LEVEL) + MASK (R271). -/
def formatData (level mask : Nat) : Nat := 8 * levelCode level + mask

/-- One step of the division by G15 = 0x537 (R273). -/
def bch15Step (rem : Nat) : Nat := (2 * rem) ^^^ ((rem / 512) * 0x537)

/-- One step of the division by G18 = 0x1F25 (R277). -/
def bch18Step (rem : Nat) : Nat := (2 * rem) ^^^ ((rem / 2048) * 0x1F25)

/-- `times` steps of a division. -/
def repeatStep (step : Nat → Nat) : (times : Nat) → Nat → Nat
  | 0, rem => rem
  | times + 1, rem => repeatStep step times (step rem)

/-- FMTWORD (R273). -/
def formatWord (level mask : Nat) : Nat :=
  (1024 * formatData level mask + repeatStep bch15Step 10 (formatData level mask)) ^^^ 0x5412

/-- VERWORD (R277). -/
def versionWord (v : Nat) : Nat := 4096 * v + repeatStep bch18Step 12 v

/-- The module at a position is a Format module (R270); a position outside the matrix holds none (R307). -/
def isFormatModule (g : Grid) (p : Nat × Nat) : Bool :=
  match gridAt g p.1 p.2 with
  | some m => m.prov = .format
  | none => false

/-- MOD[p] <- dark, the provenance unchanged (R274). -/
def setDark (g : Grid) (p : Nat × Nat) (dark : Bool) : Grid :=
  match gridAt g p.1 p.2 with
  | some m => gridSet g p.1 p.2 { m with dark := dark }
  | none => g

/-- Write the bits of a word from bit i on at its two copies' positions, i ascending (R270, R274, R278); none where one of
the modules is not Format. -/
def writeInfo (word : Nat) : (i : Nat) → List ((Nat × Nat) × (Nat × Nat)) → Grid → Option Grid
  | _, [], g => some g
  | i, (p, q) :: rest, g =>
    if isFormatModule g p && isFormatModule g q then
      writeInfo word (i + 1) rest (setDark (setDark g p (word.testBit i)) q (word.testBit i))
    else none

/-- Both copies of the format word (R274). -/
def writeFormatWord (word n : Nat) (g : Grid) : Option Grid :=
  writeInfo word 0 (formatPositions1.zip (formatPositions2 n)) g

/-- Both blocks of the version word, for v ≥ 7 (R278). -/
def writeVersionWord (v n : Nat) (g : Grid) : Option Grid :=
  if 7 ≤ v then writeInfo (versionWord v) 0 ((versionPositions1 n).zip (versionPositions2 n)) g
  else some g

/-- FORMAT after the stage test (R270). -/
def formatBody (s : State) : State :=
  let n := s.side.toNat
  let written := (writeFormatWord (formatWord s.level.toNat s.mask.toNat) n (gridOf s)).bind
    (writeVersionWord s.ver.toNat n)
  match written with
  | some g => { s with modules := g, stage := .final }
  | none => raise .internalTableFault 0x17 s

/-- FORMAT as a function of the state (R270). -/
def runFormat (s : State) : State := atStage .masked 0x17 formatBody s

/-- FORMAT (R270). -/
def execFormat (s : State) : Host.Outcome State Fault Refusal := .next (runFormat s)

end Sys2Proof.Machine
end

