-- ==== Sys2Proof/Machine/MaskSelector.lean ====
section
/-! DEFINITION. The Mask Selector (R245 to R265): the eight mask formulas, the four penalty rules, the selection, and the
command MSELECT (R260). -/

namespace Sys2Proof.Machine

/-- mask(m, r, c) (R245). -/
def maskBit (m : Fin 8) (r c : Nat) : Bool :=
  match m with
  | 0 => (r + c) % 2 = 0
  | 1 => r % 2 = 0
  | 2 => c % 3 = 0
  | 3 => (r + c) % 3 = 0
  | 4 => (r / 2 + c / 3) % 2 = 0
  | 5 => (r * c) % 2 + (r * c) % 3 = 0
  | 6 => ((r * c) % 2 + (r * c) % 3) % 2 = 0
  | 7 => ((r + c) % 2 + (r * c) % 3) % 2 = 0

/-- A module under a mask: inverted if it is Data and the formula holds (R247). -/
def maskModule (m : Fin 8) (r c : Nat) (x : QrModule) : QrModule :=
  if x.prov = .data ∧ maskBit m r c then { x with dark := !x.dark } else x

/-- A row from column c on, under a mask. -/
def maskRow (m : Fin 8) (r : Nat) : Nat → List QrModule → List QrModule
  | _, [] => []
  | c, x :: rest => maskModule m r c x :: maskRow m r (c + 1) rest

/-- The rows from row r on, under a mask. -/
def maskRows (m : Fin 8) : Nat → Grid → Grid
  | _, [] => []
  | r, row :: rest => maskRow m r 0 row :: maskRows m (r + 1) rest

/-- masked(M, m) (R247). -/
def masked (g : Grid) (m : Fin 8) : Grid := maskRows m 0 g

/-- The colours of a grid, which the penalty rules look at (R248). -/
def colours (g : Grid) : List (List Bool) := g.map (·.map (·.dark))

/-- The columns of a square, each from the top. -/
def transpose : List (List Bool) → List (List Bool)
  | [] => []
  | [row] => row.map ([·])
  | row :: rest => List.zipWith List.cons row (transpose rest)

/-- The 2·n lines: the rows and the columns (R249). -/
def linesOf (t : List (List Bool)) : List (List Bool) := t ++ transpose t

/-- The lengths of the maximal runs of a line, the current run being `len` modules of colour `colour` (R250). -/
def runsFrom (colour : Bool) (len : Nat) : List Bool → List Nat
  | [] => [len]
  | x :: rest => if x = colour then runsFrom colour (len + 1) rest else len :: runsFrom x 1 rest

/-- The lengths of the maximal runs of a line (R250). -/
def runsOf : List Bool → List Nat
  | [] => []
  | x :: rest => runsFrom x 1 rest

/-- A run's penalty: L − 2 if L ≥ 5 (R250). -/
def runPenalty (len : Nat) : Nat := if 5 ≤ len then len - 2 else 0

/-- N1 (R250). -/
def penaltyN1 (t : List (List Bool)) : Nat :=
  ((linesOf t).map fun line => ((runsOf line).map runPenalty).sum).sum

/-- The 2×2 blocks of one colour in two adjacent rows (R251). -/
def blocksInRows : List Bool → List Bool → Nat
  | a :: a' :: as, b :: b' :: bs =>
    (if a = a' ∧ a = b ∧ a = b' then 1 else 0) + blocksInRows (a' :: as) (b' :: bs)
  | _, _ => 0

/-- The 2×2 blocks of one colour (R251). -/
def blockCount : List (List Bool) → Nat
  | r :: r' :: rest => blocksInRows r r' + blockCount (r' :: rest)
  | _ => 0

/-- N2 (R251). -/
def penaltyN2 (t : List (List Bool)) : Nat := 3 * blockCount t

/-- PA: the ratio sequence, then four Light (R252). -/
def patternA : List Bool := [true, false, true, true, true, false, true, false, false, false, false]

/-- PB: four Light, then the ratio sequence (R252). -/
def patternB : List Bool := [false, false, false, false, true, false, true, true, true, false, true]

/-- The windows of a line that equal PA or PB (R252). -/
def patternMatches : List Bool → Nat
  | [] => 0
  | x :: rest =>
    (if patternA.isPrefixOf (x :: rest) ∨ patternB.isPrefixOf (x :: rest) then 1 else 0) + patternMatches rest

/-- N3 (R252). -/
def penaltyN3 (t : List (List Bool)) : Nat := 40 * ((linesOf t).map patternMatches).sum

/-- The number of Dark modules (R253). -/
def darkCount (t : List (List Bool)) : Nat := (t.map fun row => row.countP id).sum

/-- N4 from the number of Dark modules and of all modules (R253). -/
def penaltyN4 (dark total : Nat) : Nat :=
  10 * (((20 * dark : Nat) - (10 * total : Nat) : Int).natAbs / total)

/-- score(T) of an n × n square (R254). -/
def score (n : Nat) (t : List (List Bool)) : Nat :=
  penaltyN1 t + penaltyN2 t + penaltyN3 t + penaltyN4 (darkCount t) (n * n)

/-- The penalty score of a mask trial (R248, R260). -/
def trialScore (n : Nat) (g : Grid) (m : Fin 8) : Nat := score n (colours (masked g m))

/-- The scores of the eight trials, mask 0 first (R260). -/
def trialScores (n : Nat) (g : Grid) : Vector Word 8 :=
  #v[BitVec.ofNat 32 (trialScore n g 0), BitVec.ofNat 32 (trialScore n g 1), BitVec.ofNat 32 (trialScore n g 2),
     BitVec.ofNat 32 (trialScore n g 3), BitVec.ofNat 32 (trialScore n g 4), BitVec.ofNat 32 (trialScore n g 5),
     BitVec.ofNat 32 (trialScore n g 6), BitVec.ofNat 32 (trialScore n g 7)]

/-- The better of two masks, the first argument where the scores are equal (R255). -/
def betterMask (scores : Vector Word 8) (a b : Fin 8) : Fin 8 :=
  if scores[b].toNat < scores[a].toNat then b else a

/-- The least mask of least score (R255). -/
def winner (scores : Vector Word 8) : Fin 8 :=
  [1, 2, 3, 4, 5, 6, 7].foldl (betterMask scores) 0

/-- MSELECT after the stage test (R260). -/
def mselectBody (s : State) : State :=
  let g := gridOf s
  let scores := trialScores s.side.toNat g
  let w := winner scores
  { s with scores := scores, modules := masked g w, mask := BitVec.ofNat 3 w.val, stage := .masked }

/-- MSELECT as a function of the state (R260). -/
def runMselect (s : State) : State := atStage .placed 0x16 mselectBody s

/-- MSELECT (R260). -/
def execMselect (s : State) : Host.Outcome State Fault Refusal := .next (runMselect s)

end Sys2Proof.Machine
end

