-- ==== Sys2Proof/Machine/Segmenter.lean ====
section
/-! DEFINITION. The Segmenter (R110 to R122): character sets, costs, the dynamic programme of R116 with the tie-break of R117,
and the command SEGMENT (R119). -/

namespace Sys2Proof.Machine

/-- A decimal digit, 0x30..0x39 (R111). -/
def isDigit (ch : Byte) : Bool := decide (0x30 ≤ ch.toNat) && decide (ch.toNat ≤ 0x39)

/-- An upper-case letter, 0x41..0x5A (R111). -/
def isUpper (ch : Byte) : Bool := decide (0x41 ≤ ch.toNat) && decide (ch.toNat ≤ 0x5A)

/-- The numeric value of a digit (R111). -/
def digitValue (ch : Byte) : Option Nat := if isDigit ch then some (ch.toNat - 0x30) else none

/-- aval(ch), the value of an alphanumeric character, 0..44 (R111). -/
def aval (ch : Byte) : Option Nat :=
  if isDigit ch then some (ch.toNat - 0x30)
  else if isUpper ch then some (ch.toNat - 0x37)
  else match ch.toNat with
    | 0x20 => some 36
    | 0x24 => some 37
    | 0x25 => some 38
    | 0x2A => some 39
    | 0x2B => some 40
    | 0x2D => some 41
    | 0x2E => some 42
    | 0x2F => some 43
    | 0x3A => some 44
    | _ => none

/-- `ch ∈ set(m)` (R111). -/
def inSet (m : Mode) (ch : Byte) : Bool :=
  match m with
  | .numeric => (digitValue ch).isSome
  | .alphanumeric => (aval ch).isSome
  | .byte => true

/-- Payload bits P(m, k) (R113). -/
def payloadBits (m : Mode) (k : Nat) : Nat :=
  match m with
  | .numeric => 10 * (k / 3) + (match k % 3 with | 0 => 0 | 1 => 4 | _ => 7)
  | .alphanumeric => 11 * (k / 2) + 6 * (k % 2)
  | .byte => 8 * k

/-- Header bits H(m, v) = 4 + W(m, v) (R114). -/
def headerBits (m : Mode) (v : Nat) : Nat := 4 + countWidth m v

/-- The segmentation version vs: the forced version, else 1 (R114). -/
def segmentationVersion (s : State) : Nat := if s.fver = 0 then 1 else s.fver.toNat

/-- A candidate for the last segment of TEXT[0..j) (R116): its mode, its character count j − i, and
best[i] + H(m, vs) + P(m, j − i). -/
structure Candidate where
  mode : Mode
  count : Nat
  cost : Nat
  deriving DecidableEq, Repr

/-- The better of two candidates for the same j (R117): the lesser cost; the first argument where they are equal. -/
def preferFirst (x y : Option Candidate) : Option Candidate :=
  match x, y with
  | none, y => y
  | x, none => x
  | some a, some b => if b.cost < a.cost then some b else some a

/-- The best candidate of mode m for one j. The list holds (best[i], TEXT[i]) for i = j−1 down to 0, and k is j − i for its
head: a start i counts as long as TEXT[i .. j) lies in set(m), and among equal costs the smallest i wins (R116, R117). -/
def bestOfMode (vs : Nat) (m : Mode) : List (Nat × Byte) → Nat → Option Candidate
  | [], _ => none
  | (best, ch) :: older, k =>
    if inSet m ch then
      preferFirst (bestOfMode vs m older (k + 1)) (some ⟨m, k, best + headerBits m vs + payloadBits m k⟩)
    else none

/-- back[j] and best[j]: the best candidate over the three modes, the smaller ordinal first among equal costs (R117). -/
def bestCandidate (vs : Nat) (reversed : List (Nat × Byte)) : Option Candidate :=
  preferFirst (bestOfMode vs .numeric reversed 1)
    (preferFirst (bestOfMode vs .alphanumeric reversed 1) (bestOfMode vs .byte reversed 1))

/-- The left-to-right pass of R116. `reversed` holds (best[i], TEXT[i]) for the characters taken in, newest first; `best` is
best[j] for the prefix they make; the result is back[n], .., back[1], newest first, on top of `back`. -/
def forwardPass (vs : Nat) : List Byte → Nat → List (Nat × Byte) → List Candidate → List Candidate
  | [], _, _, back => back
  | ch :: rest, best, reversed, back =>
    let reversed' := (best, ch) :: reversed
    match bestCandidate vs reversed' with
    | some c => forwardPass vs rest c.cost reversed' (c :: back)
    | none => back

/-- Reading the segments off backwards (R116): `back` is back[j], .., back[1]; `fuel` bounds the number of segments. -/
def traceBack : (fuel : Nat) → List Candidate → List Segment → List Segment
  | 0, _, acc => acc
  | _, [], acc => acc
  | fuel + 1, c :: back, acc =>
    let start := (c :: back).length - c.count
    traceBack fuel ((c :: back).drop c.count) (⟨c.mode, start, c.count⟩ :: acc)

/-- The mode of the empty text's one segment: least H(m, vs), the smallest ordinal among equals (R118). -/
def emptyMode (vs : Nat) : Mode :=
  if headerBits .numeric vs ≤ headerBits .alphanumeric vs ∧ headerBits .numeric vs ≤ headerBits .byte vs then .numeric
  else if headerBits .alphanumeric vs ≤ headerBits .byte vs then .alphanumeric
  else .byte

/-- The segment list of a text (R116, R118). -/
def segmentText (vs : Nat) (text : List Byte) : List Segment :=
  match text with
  | [] => [⟨emptyMode vs, 0, 0⟩]
  | _ :: _ => traceBack text.length (forwardPass vs text 0 [] []) []

/-- SEGMENT after the stage test (R119): the parameter tests of R112, then the segment list. -/
def segmentBody (s : State) : State :=
  if Config.textMax < s.tlen.toNat then raise .badParameter 0x10 s
  else if Config.verMax < s.fver.toNat then raise .badParameter 0x10 s
  else
    let list := segmentText (segmentationVersion s) (textSlice s 0 s.tlen.toNat)
    { s with segt := list, nseg := BitVec.ofNat 14 list.length, stage := .segmented }

/-- SEGMENT as a function of the state (R119). -/
def runSegment (s : State) : State := atStage .idle 0x10 segmentBody s

/-- SEGMENT (R119). -/
def execSegment (s : State) : Host.Outcome State Fault Refusal := .next (runSegment s)

end Sys2Proof.Machine
end

