-- ==== Sys2Proof/Machine/VersionSelector.lean ====
section
/-! DEFINITION. The Version Selector (R130 to R143): required bits, fit, and the command VSELECT (R138). -/

namespace Sys2Proof.Machine

/-- The bits of one segment at version v (R136); none where its count does not fit its count indicator (NOFIT). -/
def segmentBits (v : Nat) (g : Segment) : Option Nat :=
  if 2 ^ countWidth g.mode v ≤ g.count then none
  else some (4 + countWidth g.mode v + payloadBits g.mode g.count)

/-- required(v) of a segment list (R136); none is NOFIT. -/
def required (v : Nat) : List Segment → Option Nat
  | [] => some 0
  | g :: rest =>
    match segmentBits v g, required v rest with
    | some n, some m => some (n + m)
    | _, _ => none

/-- fits(v, ℓ) (R137). -/
def fits (list : List Segment) (level v : Nat) : Bool :=
  match required v list, blktab v level with
  | some bits, some t => decide (bits ≤ 8 * t.dcap)
  | _, _ => false

/-- The least fitting version in 1..40, by ascending scan (R138). -/
def leastFit (list : List Segment) (level : Nat) : Option Nat :=
  (List.range' 1 Config.verMax).find? (fits list level)

/-- VSELECT's last lines (R138): the results for the chosen version v. A table lookup outside its table raises
InternalTableFault (R307), and so does a NOFIT version, which `fits` has excluded. -/
def acceptVersion (list : List Segment) (v : Nat) (s : State) : State :=
  match blktab v s.level.toNat, totcw v, required v list with
  | some t, some total, some bits =>
    { s with
      ver := BitVec.ofNat 6 v, side := BitVec.ofNat 8 (sideOf v), bitlen := BitVec.ofNat 15 bits
      dlen := BitVec.ofNat 12 t.dcap, clen := BitVec.ofNat 12 total, nblk := BitVec.ofNat 7 t.nblk
      stage := .versioned }
  | _, _, _ => raise .internalTableFault 0x11 s

/-- VSELECT after the stage test (R138). -/
def vselectBody (s : State) : State :=
  if Config.verMax < s.fver.toNat then raise .badParameter 0x11 s
  else if s.fver ≠ 0 then
    if fits (segments s) s.level.toNat s.fver.toNat then acceptVersion (segments s) s.fver.toNat s
    else raise .versionTooSmall 0x11 s
  else match leastFit (segments s) s.level.toNat with
    | some v => acceptVersion (segments s) v s
    | none => raise .dataTooLong 0x11 s

/-- VSELECT as a function of the state (R138). -/
def runVselect (s : State) : State := atStage .segmented 0x11 vselectBody s

/-- VSELECT (R138). -/
def execVselect (s : State) : Host.Outcome State Fault Refusal := .next (runVselect s)

end Sys2Proof.Machine
end

