-- ==== Sys2Proof/Machine/Packer.lean ====
section
/-! DEFINITION. The Bit Stream Encoder (R150 to R162): segment bits, terminator and padding, and the command PACK (R160). -/

namespace Sys2Proof.Machine

/-- `put(val, n)`: the n bits of val, the most significant first (R150). -/
def put (val n : Nat) : List Bool := (List.range n).map fun i => val.testBit (n - 1 - i)

/-- The mode indicator MI(m), 4 bits (R152). -/
def modeIndicator : Mode → Nat
  | .numeric => 1
  | .alphanumeric => 2
  | .byte => 4

/-- The value of a character in its segment's mode (R111, R153, R154). A character outside the mode's set has none and no
run packs one: a free value (log 6). -/
def charValue (m : Mode) (ch : Byte) : Nat :=
  match m with
  | .numeric => (digitValue ch).getD (Config.noCharValue .numeric ch)
  | .alphanumeric => (aval ch).getD (Config.noCharValue .alphanumeric ch)
  | .byte => ch.toNat

/-- Numeric payload: three digits in 10 bits, two trailing ones in 7, one in 4 (R153). -/
def numericPayload : List Nat → List Bool
  | a :: b :: c :: rest => put (100 * a + 10 * b + c) 10 ++ numericPayload rest
  | [a, b] => put (10 * a + b) 7
  | [a] => put a 4
  | [] => []

/-- Alphanumeric payload: two characters in 11 bits, a trailing one in 6 (R154). -/
def alphanumericPayload : List Nat → List Bool
  | a :: b :: rest => put (45 * a + b) 11 ++ alphanumericPayload rest
  | [a] => put a 6
  | [] => []

/-- Byte payload: 8 bits a character (R155). -/
def bytePayload : List Nat → List Bool
  | a :: rest => put a 8 ++ bytePayload rest
  | [] => []

/-- The payload of a segment's characters (R153 to R155), one packing function per mode (R122). -/
def payload (m : Mode) (chars : List Byte) : List Bool :=
  match m with
  | .numeric => numericPayload (chars.map (charValue .numeric))
  | .alphanumeric => alphanumericPayload (chars.map (charValue .alphanumeric))
  | .byte => bytePayload (chars.map (charValue .byte))

/-- The bits of one segment at version v: mode indicator, count, payload (R151). -/
def emitSegment (s : State) (v : Nat) (g : Segment) : List Bool :=
  put (modeIndicator g.mode) 4 ++ put g.count (countWidth g.mode v)
    ++ payload g.mode (textSlice s g.start g.count)

/-- The bits of all segments in order (R151). -/
def segmentStream (s : State) : List Bool :=
  (segments s).flatMap (emitSegment s s.ver.toNat)

/-- Pad bytes from the p-th on, `n` of them: 0xEC for even p, 0x11 for odd p (R159). -/
def padBytes (p : Nat) : Nat → List Bool
  | 0 => []
  | n + 1 => put (if p % 2 = 0 then 0xEC else 0x11) 8 ++ padBytes (p + 1) n

/-- The terminator: min(4, cap − |S|) zero bits (R157). -/
def withTerminator (cap : Nat) (bits : List Bool) : List Bool :=
  bits ++ put 0 (min 4 (cap - bits.length))

/-- Zero bits to the next byte boundary (R158). -/
def withBitPadding (bits : List Bool) : List Bool :=
  bits ++ put 0 ((8 - bits.length % 8) % 8)

/-- Pad bytes while |S| < cap (R159). -/
def withPadBytes (cap : Nat) (bits : List Bool) : List Bool :=
  bits ++ padBytes 0 ((cap - bits.length + 7) / 8)

/-- A byte from its eight bits, the most significant first (R156). -/
def byteOfBits (b7 b6 b5 b4 b3 b2 b1 b0 : Bool) : Byte :=
  BitVec.ofNat 8 (128 * b7.toNat + 64 * b6.toNat + 32 * b5.toNat + 16 * b4.toNat
    + 8 * b3.toNat + 4 * b2.toNat + 2 * b1.toNat + b0.toNat)

/-- Cutting S into bytes, the first bit the most significant of byte 0 (R156). -/
def cutBytes : List Bool → List Byte
  | b7 :: b6 :: b5 :: b4 :: b3 :: b2 :: b1 :: b0 :: rest => byteOfBits b7 b6 b5 b4 b3 b2 b1 b0 :: cutBytes rest
  | _ => []

/-- The completed bit sequence (R157, R158, R159). -/
def completeStream (cap : Nat) (bits : List Bool) : List Bool :=
  withPadBytes cap (withBitPadding (withTerminator cap bits))

/-- PACK after the stage test (R160). -/
def packBody (s : State) : State :=
  let bits := segmentStream s
  let cap := 8 * s.dlen.toNat
  if bits.length ≠ s.bitlen.toNat ∨ cap < bits.length then raise .internalLengthFault 0x12 s
  else
    let full := completeStream cap bits
    if full.length ≠ cap then raise .internalLengthFault 0x12 s
    else { s with dcw := cutBytes full, stage := .packed }

/-- PACK as a function of the state (R160). -/
def runPack (s : State) : State := atStage .versioned 0x12 packBody s

/-- PACK (R160). -/
def execPack (s : State) : Host.Outcome State Fault Refusal := .next (runPack s)

end Sys2Proof.Machine
end

