-- ==== Sys2Proof/Machine/ReedSolomon.lean ====
section
/-! DEFINITION. The Reed-Solomon encoder (R190 to R210): polynomials over GF(256), generator polynomials, the remainder
register, blocks and interleaving, and the commands RSENC, RSGEN, RSBLK (R205, R207, R208). Polynomials are lists of
coefficients, the highest power first (R190). -/

namespace Sys2Proof.Machine

/-- Coefficient-wise ⊕ of two lists aligned at their first coefficients, the shorter padded with zeros at its end. -/
def xorLeft : List Byte → List Byte → List Byte
  | [], ys => ys
  | xs, [] => xs
  | x :: xs, y :: ys => (x ^^^ y) :: xorLeft xs ys

/-- pmul(a, b) (R191): coefficient k is the ⊕ of gmul(a[i], b[j]) over i + j = k, indices from the highest power. -/
def pmul : List Byte → List Byte → List Byte
  | [], _ => []
  | a :: as, b => xorLeft (b.map (gmul a)) (0 :: pmul as b)

/-- eval(p, y) by Horner's rule (R191). -/
def peval (p : List Byte) (y : Byte) : Byte :=
  p.foldl (fun acc c => gmul acc y ^^^ c) 0

/-- The generator polynomial g_E with its leading coefficient 1 (R192). -/
def generator : Nat → List Byte
  | 0 => [1]
  | i + 1 => pmul (generator i) [1, gfExp i]

/-- The listed coefficients g[0..E), of x^(E−1) down to x^0 (R193, R196). -/
def generatorCoeffs (e : Nat) : List Byte := (generator e).tail

/-- One step of the remainder register (R196): the feedback is f = d ⊕ rem[0]; rem[i] <- rem[i+1] ⊕ gmul(g[i], f), and the
last place takes gmul(g[E−1], f). -/
def remainderStep (g : List Byte) (rem : List Byte) (d : Byte) : List Byte :=
  match rem with
  | [] => []
  | r0 :: rest => List.zipWith (fun r gi => r ^^^ gmul gi (d ^^^ r0)) (rest ++ [0]) g

/-- rs_remainder(d[0..K), E) (R196). -/
def rsRemainder (data : List Byte) (e : Nat) : List Byte :=
  data.foldl (remainderStep (generatorCoeffs e)) (List.replicate e 0)

/-- K(b), the data codewords of block b (R203). -/
def blockSize (t : BlkEntry) (b : Nat) : Nat := if b < t.n1 then t.k1 else t.k2

/-- off(b), the index in DCW of block b's first data codeword (R203). -/
def blockOffset (t : BlkEntry) (b : Nat) : Nat :=
  if b < t.n1 then b * t.k1 else t.n1 * t.k1 + (b - t.n1) * t.k2

/-- The data codewords of block b (R203). -/
def blockData (t : BlkEntry) (dcw : List Byte) (b : Nat) : List Byte :=
  (dcw.drop (blockOffset t b)).take (blockSize t b)

/-- All blocks' data codewords, block 0 first (R203). -/
def dataBlocks (t : BlkEntry) (dcw : List Byte) : List (List Byte) :=
  (List.range t.nblk).map (blockData t dcw)

/-- Codeword i of every block that has one, block 0 first (R204). -/
def column (i : Nat) (blocks : List (List Byte)) : List Byte := blocks.filterMap (·[i]?)

/-- Codeword 0 of every block, then codeword 1, and so on for `n` of them; exhausted blocks are skipped (R204). -/
def interleaveBlocks (n : Nat) (blocks : List (List Byte)) : List Byte :=
  (List.range n).flatMap fun i => column i blocks

/-- Kmax, the data codewords of the longest block (R204). -/
def maxBlockSize (t : BlkEntry) : Nat := if 0 < t.n2 then t.k2 else t.k1

/-- The final codeword stream: all data codewords interleaved, then all ecc codewords (R204). -/
def interleave (t : BlkEntry) (data ecc : List (List Byte)) : List Byte :=
  interleaveBlocks (maxBlockSize t) data ++ interleaveBlocks t.e ecc

/-- RSENC after the stage test (R205). -/
def rsencBody (s : State) : State :=
  match blktab s.ver.toNat s.level.toNat with
  | none => raise .internalTableFault 0x13 s
  | some t =>
    if t.dcap ≠ s.dlen.toNat ∨ t.nblk ≠ s.nblk.toNat ∨ s.dlen.toNat + t.nblk * t.e ≠ s.clen.toNat then
      raise .internalLengthFault 0x13 s
    else
      let data := dataBlocks t (dataCodewords s)
      let ecc := data.map fun d => rsRemainder d t.e
      let stream := interleave t data ecc
      if stream.length ≠ s.clen.toNat then raise .internalLengthFault 0x13 s
      else { s with eccb := ecc, cw := stream, stage := .coded }

/-- RSENC as a function of the state (R205). -/
def runRsenc (s : State) : State := atStage .packed 0x13 rsencBody s

/-- RSENC (R205). -/
def execRsenc (s : State) : Host.Outcome State Fault Refusal := .next (runRsenc s)

/-- The first 30 elements of a list, padded with zeros. -/
def pad30 (l : List Byte) : List Byte := l.take 30 ++ List.replicate (30 - l.length) 0

theorem pad30_length (l : List Byte) : (pad30 l).length = 30 := by
  simp only [pad30, List.length_append, List.length_take, List.length_replicate]
  omega

/-- RSOUT holding a list from index 0 on and zeros after it (R207, R208). -/
def rsoutOf (l : List Byte) : Vector Byte 30 := ⟨⟨pad30 l⟩, pad30_length l⟩

/-- RSGEN (R207): RSOUT <- the generator polynomial of degree E; BadParameter if E = 0 or E > 30. -/
def execRsgen (degree : Nat) (s : State) : Host.Outcome State Fault Refusal :=
  if degree < 1 ∨ Config.eccMax < degree then .next (raise .badParameter 0x28 s)
  else .next { s with rsout := rsoutOf (generatorCoeffs degree) }

/-- RSBLK (R208): RSOUT <- the E ecc codewords of RSIN[0..K); BadParameter outside the ranges. -/
def execRsblk (dataCount eccCount : Nat) (s : State) : Host.Outcome State Fault Refusal :=
  if eccCount < 1 ∨ Config.eccMax < eccCount ∨ dataCount < 1 ∨ 255 < dataCount + eccCount then
    .next (raise .badParameter 0x29 s)
  else .next { s with rsout := rsoutOf (rsRemainder (rsinBytes s dataCount) eccCount) }

end Sys2Proof.Machine
end

