-- ==== Sys2Proof/Machine/Control.lean ====
section
/-! DEFINITION. The control commands NOP, CLEAR and ENCODE (R290, R292, R295). -/

namespace Sys2Proof.Machine

/-- NOP (R290). -/
def execNop (s : State) : Host.Outcome State Fault Refusal := .next s

/-- CLEAR (R292). -/
def execClear (s : State) : Host.Outcome State Fault Refusal := .next (acknowledge s)

/-- Stage commands one after the other, ending at the first that raises (R295). -/
def runStages : List (State → State) → State → State
  | [], s => s
  | stage :: rest, s =>
    if errFlag (stage s) then stage s else runStages rest (stage s)

/-- The eight stage commands, SEGMENT to FORMAT, in pipeline order (R295). -/
def stageCommands : List (State → State) :=
  [runSegment, runVselect, runPack, runRsenc, runMbuild, runMplace, runMselect, runFormat]

/-- ENCODE as a function of the state (R295): a new call, then the eight stage commands. -/
def runEncode (s : State) : State := runStages stageCommands (acknowledge s)

/-- ENCODE (R295). -/
def execEncode (s : State) : Host.Outcome State Fault Refusal := .next (runEncode s)

end Sys2Proof.Machine
end

