-- ==== Sys2Proof/Machine/Dispatch.lean ====
section
/-! DEFINITION. The dispatch: one arm per command, each one direct call of its meaning (R93). -/

namespace Sys2Proof.Machine

/-- Perform a command (R91's last line): the rule named in the table of R93. -/
def exec (i : Instr) (s : State) : Host.Outcome State Fault Refusal :=
  match i with
  | .nop => Sys2Proof.Machine.execNop s
  | .clear => Sys2Proof.Machine.execClear s
  | .encode => Sys2Proof.Machine.execEncode s
  | .segment => Sys2Proof.Machine.execSegment s
  | .vselect => Sys2Proof.Machine.execVselect s
  | .pack => Sys2Proof.Machine.execPack s
  | .rsenc => Sys2Proof.Machine.execRsenc s
  | .mbuild => Sys2Proof.Machine.execMbuild s
  | .mplace => Sys2Proof.Machine.execMplace s
  | .mselect => Sys2Proof.Machine.execMselect s
  | .format => Sys2Proof.Machine.execFormat s
  | .gfmul a b => Sys2Proof.Machine.execGfmul a b s
  | .gfdiv a b => Sys2Proof.Machine.execGfdiv a b s
  | .gfexp exponent => Sys2Proof.Machine.execGfexp exponent s
  | .gflog a => Sys2Proof.Machine.execGflog a s
  | .rsgen degree => Sys2Proof.Machine.execRsgen degree s
  | .rsblk dataCount eccCount => Sys2Proof.Machine.execRsblk dataCount eccCount s

end Sys2Proof.Machine
end

