-- ==== Sys2Proof/Machine/PortMap.lean ====
section
/-! DEFINITION. The port's address map and what a read finds: the regions (R64), the register block (R20, R67), the windows
(R68 to R72), and which window bytes are specified (R47). -/

namespace Sys2Proof.Machine

/-- The regions of the port's address space (R64). -/
inductive Region where
  | reg
  | gfexp
  | gflog
  | rsin
  | rsout
  | text
  | dcw
  | cw
  | eccb
  | segt
  | mod
  deriving DecidableEq, Repr

/-- A row of the address map: first and last address of a region (R64). -/
structure RegionRow where
  first : Nat
  last : Nat
  region : Region
  deriving DecidableEq, Repr

/-- The address map (R64). -/
def addressMap : List RegionRow := [
  ⟨0x00000, 0x000FF, .reg⟩,
  ⟨0x00100, 0x001FF, .gfexp⟩,
  ⟨0x00200, 0x002FF, .gflog⟩,
  ⟨0x00300, 0x003FF, .rsin⟩,
  ⟨0x00400, 0x0041F, .rsout⟩,
  ⟨0x02000, 0x03FFF, .text⟩,
  ⟨0x04000, 0x04FFF, .dcw⟩,
  ⟨0x05000, 0x05FFF, .cw⟩,
  ⟨0x06000, 0x06FFF, .eccb⟩,
  ⟨0x10000, 0x17FFF, .segt⟩,
  ⟨0x20000, 0x2FFFF, .mod⟩]

/-- The row of the map an address lies in; none where it is unmapped (R64). -/
def regionRow (a : Nat) : Option RegionRow :=
  addressMap.find? fun row => decide (row.first ≤ a) && decide (a ≤ row.last)

/-- region(addr), none for NONE (R64). -/
def region (a : Nat) : Option Region := (regionRow a).map (·.region)

/-- A register read by its offset (R20); a reserved offset, CMD and every unlisted bit read 0 (R20, R21, R67). -/
def readRegister (s : State) (offset : Nat) : Word :=
  match offset with
  | 0x04 => statusWord s
  | 0x08 => BitVec.ofNat 32 s.errcode.code
  | 0x0C => errinfoWord s
  | 0x10 => s.level.zeroExtend 32
  | 0x14 => s.fver.zeroExtend 32
  | 0x18 => s.tlen.zeroExtend 32
  | 0x20 => s.ver.zeroExtend 32
  | 0x24 => s.side.zeroExtend 32
  | 0x28 => s.mask.zeroExtend 32
  | 0x2C => s.nseg.zeroExtend 32
  | 0x30 => s.bitlen.zeroExtend 32
  | 0x34 => s.dlen.zeroExtend 32
  | 0x38 => s.clen.zeroExtend 32
  | 0x3C => s.nblk.zeroExtend 32
  | 0x40 => s.scores[0]
  | 0x44 => s.scores[1]
  | 0x48 => s.scores[2]
  | 0x4C => s.scores[3]
  | 0x50 => s.scores[4]
  | 0x54 => s.scores[5]
  | 0x58 => s.scores[6]
  | 0x5C => s.scores[7]
  | 0x60 => s.gfres.zeroExtend 32
  | 0x64 => 0x51524531
  | _ => 0

/-- The byte of a GFEXP or GFLOG window: EXP[i mod 255]; LOG[a], and 0xFF at a = 0 (R72). -/
def gflogByte (a : Nat) : Byte :=
  match gfLog (BitVec.ofNat 8 a) with
  | some i => BitVec.ofNat 8 i
  | none => 0xFF

/-- Byte k, from the least significant, of a 32-bit value: the port is little-endian (R68). -/
def byteOfWord (w : Word) (k : Nat) : Byte := w.extractLsb' (8 * k) 8

/-- E of the BLKTAB entry of (VER, LEVEL), 0 where there is none (R43). -/
def eccOf (s : State) : Nat :=
  match blktab s.ver.toNat s.level.toNat with
  | some t => t.e
  | none => 0

/-- The byte at offset i of a region's window, none where it is unspecified (R47): TEXT and RSIN where the host has written
(R40, R46); a result buffer inside its extent at the stages where it is valid (R24, R69, R70, R71). -/
def regionByte (s : State) (r : Region) (i : Nat) : Option Byte :=
  match r with
  | .reg => none
  | .gfexp => some (gfExp i)
  | .gflog => some (gflogByte i)
  | .rsin => Memory.load s.mem (rsinBase + i)
  | .rsout => some (s.rsout.toList[i]?.getD 0)
  | .text => Memory.load s.mem (textBase + i)
  | .dcw => if 3 ≤ s.stage.code ∧ i < s.dlen.toNat then s.dcw[i]? else none
  | .cw => if 4 ≤ s.stage.code ∧ i < s.clen.toNat then s.cw[i]? else none
  | .eccb =>
    if 4 ≤ s.stage.code ∧ i / 32 < s.nblk.toNat ∧ i % 32 < eccOf s then
      (s.eccb[i / 32]?).bind (·[i % 32]?)
    else none
  | .segt =>
    if 1 ≤ s.stage.code ∧ i / 4 < s.nseg.toNat then
      (s.segt[i / 4]?).map fun g => byteOfWord g.entry (i % 4)
    else none
  | .mod =>
    if 5 ≤ s.stage.code ∧ i / 256 < s.side.toNat ∧ i % 256 < s.side.toNat then
      (gridAt s.modules (i / 256) (i % 256)).map (·.byte)
    else none

/-- The specified byte at a window address; none where the address is in no window or the byte is unspecified (R47). -/
def windowByte (s : State) (a : Nat) : Option Byte :=
  match regionRow a with
  | some row => regionByte s row.region (a - row.first)
  | none => none

/-- The bytes a host read finds at the given addresses, and how many free bytes have been drawn after it: an unspecified byte
is a draw, fresh at every read (R47, R73; log 4). -/
def readBytes (s : State) : List Nat → (draws : Nat) → List Byte × Nat
  | [], draws => ([], draws)
  | a :: rest, draws =>
    match windowByte s a with
    | some b => (b :: (readBytes s rest draws).1, (readBytes s rest draws).2)
    | none => (Config.freeByte draws :: (readBytes s rest (draws + 1)).1, (readBytes s rest (draws + 1)).2)

end Sys2Proof.Machine
end

