-- ==== Sys2Proof/Machine/Port.lean ====
section
/-! DEFINITION. The host port: MemRead (R62), MemWrite (R63), the execution of a command word (R91), and the host's events. -/

namespace Sys2Proof.Machine

/-- Apply a function to the next state of an outcome; a fault or a refusal passes. -/
def mapNext (f : State → State) : Host.Outcome State Fault Refusal → Host.Outcome State Fault Refusal
  | .next s => .next (f s)
  | .fault r => .fault r
  | .refused r => .refused r

/-- The number of bytes of an access (R60). -/
def accessBytes : AccessSize → Nat
  | .one => 1
  | .four => 4

/-- The three cases of ERR (R66): a 32-bit access whose address is no multiple of 4, an access any byte of which is unmapped,
an 8-bit access to the register block. A region that changes inside the access is refused too (R62, R63); none does (R65). -/
def refusedAccess (a : Nat) (size : AccessSize) : Bool :=
  (size = .four ∧ a % 4 ≠ 0)
    || region a = none || region (a + accessBytes size - 1) ≠ region a
    || (region a = some .reg ∧ size ≠ .four)

/-- The response of a transaction (R60; log 3). -/
def respond (r : Response) (s : State) : State := { s with response := some r }

/-- The word four bytes make, the first the least significant (R62, R68). -/
def wordOfBytes (b0 b1 b2 b3 : Byte) : Word :=
  BitVec.ofNat 32 (b0.toNat + 256 * b1.toNat + 65536 * b2.toNat + 16777216 * b3.toNat)

/-- The response to a read that found these bytes. -/
def readResponse : List Byte → Response
  | [b] => .okByte b
  | [b0, b1, b2, b3] => .okWord (wordOfBytes b0 b1 b2 b3)
  | _ => .err

/-- MemRead(addr, n) (R62). No state changes (R73) but the response and, for unspecified bytes, the number of draws. -/
def memRead (a : Nat) (size : AccessSize) (s : State) : State :=
  if refusedAccess a size then respond .err s
  else if region a = some .reg then respond (.okWord (readRegister s a)) s
  else
    let found := readBytes s ((List.range (accessBytes size)).map (a + ·)) s.draws
    respond (readResponse found.1) { s with draws := found.2 }

/-- The commands the sticky gate lets through (R91, R312). -/
def passesGate : Except DecodeError Instr → Bool
  | .ok .clear => true
  | .ok .encode => true
  | _ => false

/-- `execute(w)` (R91): the gate on ERRCODE first, then decode, then the command. -/
def execute (w : Word) (s : State) : Host.Outcome State Fault Refusal :=
  if errFlag s && !passesGate (decode w) then .next s
  else match decode w with
    | .error _ => .next (raise .illegalCommand (opField w) s)
    | .ok i => exec i s

/-- A write to a register other than CMD (R63): LEVEL, FVER and TLEN keep the bits of their field (R26) and invalidate; a
write to any other offset is ignored (R67). -/
def writeRegister (a : Nat) (v : Word) (s : State) : State :=
  match a with
  | 0x10 => invalidate { s with level := v.setWidth 2 }
  | 0x14 => invalidate { s with fver := v.setWidth 6 }
  | 0x18 => invalidate { s with tlen := v.setWidth 14 }
  | _ => s

/-- Store bytes at consecutive addresses, the first at address a. -/
def storeBytes (m : Memory) (a : Nat) : List Byte → Memory
  | [] => m
  | b :: rest => storeBytes (Memory.store m a b) (a + 1) rest

/-- A write to a window (R63): TEXT stores and invalidates, RSIN stores, every other window ignores it. -/
def writeWindow (a : Nat) (bytes : List Byte) (s : State) : State :=
  match region a with
  | some .text => invalidate { s with mem := storeBytes s.mem a bytes }
  | some .rsin => { s with mem := storeBytes s.mem a bytes }
  | _ => s

/-- MemWrite(addr, 1, v) (R63). -/
def memWriteByte (a : Nat) (v : Byte) (s : State) : Host.Outcome State Fault Refusal :=
  if refusedAccess a .one then .next (respond .err s)
  else .next (respond .ok (writeWindow a [v] s))

/-- MemWrite(addr, 4, v) (R63). A write to CMD executes the word; its response is OK whatever the command did. -/
def memWriteWord (a : Nat) (v : Word) (s : State) : Host.Outcome State Fault Refusal :=
  if refusedAccess a .four then .next (respond .err s)
  else if region a = some .reg then
    if a = 0 then mapNext (respond .ok) (execute v s)
    else .next (respond .ok (writeRegister a v s))
  else .next (respond .ok (writeWindow a ((List.range 4).map (byteOfWord v)) s))

/-- A port transaction (R60). -/
def transact (t : Transaction) (s : State) : Host.Outcome State Fault Refusal :=
  match t with
  | .read a size => .next (memRead a.toNat size s)
  | .writeByte a v => memWriteByte a.toNat v s
  | .writeWord a v => memWriteWord a.toNat v s

/-- What the block does at a host event: a transaction, or the reset of R330. -/
def hostEvent (e : HostEvent) (s : State) : Host.Outcome State Fault Refusal :=
  match e with
  | .transact t => transact t s
  | .reset => .next (hardReset s)

/-- One step of the block (R7, R60): it takes the oldest pending event; with none pending it does nothing (R330). -/
def takeEvent (s : State) : Host.Outcome State Fault Refusal :=
  match s.pending with
  | [] => .next s
  | e :: rest => hostEvent e { s with pending := rest }

/-- The host event that presents a command word to the sequencer: a 32-bit write to CMD (R21). -/
def commandEvent (w : Word) : HostEvent := .transact (.writeWord 0 w)

end Sys2Proof.Machine
end

