-- ==== Sys2Proof/Machine/Step.lean ====
section
/-! DEFINITION. One step of the machine, and the placing of a command word where the next step takes it. -/

namespace Sys2Proof.Machine

/-- One step: the oldest pending host event (log 1). -/
def step : State → Host.Outcome State Fault Refusal := takeEvent

/-- The state with a command word, given as a number whose low `nbits` bits count, as the host's next write to CMD. -/
def State.withFetchWord (s : State) (nbits w : Nat) : State :=
  { s with pending := commandEvent (BitVec.ofNat 32 (w % 2 ^ nbits)) :: s.pending }

end Sys2Proof.Machine
end

