-- ==== Sys2Proof/Safety.lean ====
section
/-! DEFINITION. The terms the claims use: the invariants of R52; the stronger consistency of registers and buffers from which
the internal faults are unreachable (R306, R307); and what the spec says of a result without saying how it is computed (a
segmentation and its cost, a power of α, the commands issued one by one). No meaning calls anything of this file. -/

namespace Sys2Proof.Machine

/-- The invariants that hold after every transaction (R52, with R30 to R36). -/
structure Inv (s : State) : Prop where
  /-- the host's bytes are in canonical form -/
  memory : Memory.wf s.mem = true
  /-- R52 (b) -/
  error_idle : s.errcode ≠ .noError → s.stage = .idle
  /-- SEGMENT has accepted the parameters (R112, R52 (d)) -/
  inputs : 1 ≤ s.stage.code → s.fver.toNat ≤ 40 ∧ s.tlen.toNat ≤ 8192
  /-- R52 (c) -/
  version : 2 ≤ s.stage.code →
    1 ≤ s.ver.toNat ∧ s.ver.toNat ≤ 40 ∧ s.side.toNat = 4 * s.ver.toNat + 17 ∧ s.bitlen.toNat ≤ 8 * s.dlen.toNat
  /-- DLEN, CLEN, NBLK are the BLKTAB entry of (VER, LEVEL) (R35) -/
  table : 2 ≤ s.stage.code → ∃ t, blktab s.ver.toNat s.level.toNat = some t ∧
    s.dlen.toNat = t.dcap ∧ totcw s.ver.toNat = some s.clen.toNat ∧ s.nblk.toNat = t.nblk
  /-- VER, SIDE, BITLEN, DLEN, CLEN, NBLK are 0 while STAGE < 2 (R30, R31, R34, R35) -/
  unversioned : s.stage.code < 2 →
    s.ver = 0 ∧ s.side = 0 ∧ s.bitlen = 0 ∧ s.dlen = 0 ∧ s.clen = 0 ∧ s.nblk = 0
  /-- NSEG is 0 while STAGE < 1 (R33) -/
  unsegmented : s.stage.code < 1 → s.nseg = 0
  /-- MASK and the scores are 0 while STAGE < 7 (R32, R36) -/
  unmasked : s.stage.code < 7 → s.mask = 0 ∧ s.scores = Vector.replicate 8 0

/-- The provenances of a grid. -/
def provenances (g : Grid) : List (List Provenance) := g.map (·.map (·.prov))

/-- Registers and buffers agree as far as STAGE says they are valid (R24), and no internal fault is recorded (R306, R307). -/
structure Consistent (s : State) : Prop extends Inv s where
  /-- SEGT[0..NSEG) has been written, and it is the list of R116 or R118 for the text (R119) -/
  segmented : 1 ≤ s.stage.code → s.segt.length = s.nseg.toNat ∧
    s.segt = segmentText (segmentationVersion s) (textSlice s 0 s.tlen.toNat)
  /-- BITLEN is required(VER) (R138) -/
  versioned : 2 ≤ s.stage.code → required s.ver.toNat s.segt = some s.bitlen.toNat
  /-- DCW[0..DLEN) has been written (R160) -/
  packed : 3 ≤ s.stage.code → s.dcw.length = s.dlen.toNat
  /-- CW[0..CLEN) has been written (R205) -/
  coded : 4 ≤ s.stage.code → s.cw.length = s.clen.toNat
  /-- MOD and PROV have been written, with the provenances MBUILD gives (R228) -/
  built : 5 ≤ s.stage.code → provenances s.modules = provenances (builtGrid s.ver.toNat s.side.toNat)
  /-- the Function modules are as MBUILD stamped them: never touched by placement or masking (R234, R247) -/
  function_kept : 5 ≤ s.stage.code → ∀ r c m, gridAt (builtGrid s.ver.toNat s.side.toNat) r c = some m →
    m.prov = .function → gridAt s.modules r c = some m
  /-- the internal faults have not been raised -/
  no_internal_fault : s.errcode ≠ .internalLengthFault ∧ s.errcode ≠ .internalTableFault

/-- A segmentation of a text from position `pos` on (R115): the segments follow one another with no gap and no overlap up to
the end, none is empty, and every character lies in its segment's set. -/
def SegmentsFrom (text : List Byte) : Nat → List Segment → Prop
  | pos, [] => pos = text.length
  | pos, g :: rest =>
    g.start = pos ∧ 1 ≤ g.count ∧
    (∀ t, pos ≤ t → t < pos + g.count → ∃ ch, text[t]? = some ch ∧ inSet g.mode ch = true) ∧
    SegmentsFrom text (pos + g.count) rest

/-- The cost of a segmentation in bits (R115). -/
def segmentationCost (vs : Nat) (list : List Segment) : Nat :=
  (list.map fun g => headerBits g.mode vs + payloadBits g.mode g.count).sum

/-- A candidate of R116 for the last segment of the text whose characters, with the best costs before them, are listed newest
first: its characters lie in the set of its mode, and this is its cost. -/
def IsCandidate (vs : Nat) (reversed : List (Nat × Byte)) (c : Candidate) : Prop :=
  1 ≤ c.count ∧ (∀ x ∈ reversed.take c.count, inSet c.mode x.2 = true) ∧
  ∃ x, reversed[c.count - 1]? = some x ∧ c.cost = x.1 + headerBits c.mode vs + payloadBits c.mode c.count

/-- α^i, by i multiplications by α (R172). -/
def alphaPower : Nat → Byte
  | 0 => 1
  | i + 1 => xtime (alphaPower i)

/-- The version VSELECT takes (R138): the forced version if there is one, else the least version that fits; it fits. -/
def Chosen (s : State) (list : List Segment) (v : Nat) : Prop :=
  fits list s.level.toNat v = true ∧
  ((s.fver ≠ 0 ∧ v = s.fver.toNat) ∨ (s.fver = 0 ∧ ∀ u, 1 ≤ u → u < v → fits list s.level.toNat u = false))

/-- The segment list that SEGMENT makes of the inputs (R119). -/
def inputSegments (s : State) : List Segment :=
  segmentText (segmentationVersion s) (textSlice s 0 s.tlen.toNat)

/-- Command words executed one after the other, without looking at STATUS in between (R297). -/
def executeAll : List Word → State → Host.Outcome State Fault Refusal
  | [], s => .next s
  | w :: rest, s =>
    match execute w s with
    | .next t => executeAll rest t
    | .fault r => .fault r
    | .refused r => .refused r

/-- What no command writes: the inputs (R27, R28, R29, R40), RSIN (R46), and the fields that belong to the host. -/
def SameInputs (s t : State) : Prop :=
  t.level = s.level ∧ t.fver = s.fver ∧ t.tlen = s.tlen ∧ t.mem = s.mem ∧
  t.pending = s.pending ∧ t.response = s.response ∧ t.draws = s.draws ∧ t.resets = s.resets

/-- STAGE 0 and all result registers 0, as invalidation leaves them (R48). -/
def Invalidated (s : State) : Prop :=
  s.stage = .idle ∧ s.ver = 0 ∧ s.side = 0 ∧ s.mask = 0 ∧ s.nseg = 0 ∧ s.bitlen = 0 ∧ s.dlen = 0 ∧ s.clen = 0 ∧
  s.nblk = 0 ∧ s.scores = Vector.replicate 8 0

/-- The address of a transaction (R60). -/
def transactionAddress : Transaction → Nat
  | .read a _ => a.toNat
  | .writeByte a _ => a.toNat
  | .writeWord a _ => a.toNat

/-- The number of bytes a transaction accesses (R60). -/
def transactionBytes : Transaction → Nat
  | .read _ size => accessBytes size
  | .writeByte _ _ => 1
  | .writeWord _ _ => 4

/-- The finder pattern as R217 prints it, Dark true. -/
def finderPicture : List (List Bool) := [
  [true, true, true, true, true, true, true],
  [true, false, false, false, false, false, true],
  [true, false, true, true, true, false, true],
  [true, false, true, true, true, false, true],
  [true, false, true, true, true, false, true],
  [true, false, false, false, false, false, true],
  [true, true, true, true, true, true, true]]

/-- The three finder patterns stand at the three corners of an n × n matrix except the bottom-right one (R217). -/
def HasFinders (g : Grid) (n : Nat) : Prop :=
  ∀ corner ∈ [(0, 0), (0, n - 7), (n - 7, 0)], ∀ i j d, (finderPicture[i]?).bind (·[j]?) = some d →
    gridAt g (corner.1 + i) (corner.2 + j) = some ⟨d, .function⟩

/-- The number of modules of a grid with a provenance. -/
def provenanceCount (p : Provenance) (g : Grid) : Nat := (g.map fun row => row.countP fun m => m.prov = p).sum

/-- The positions of the Data modules in the order of the traversal (R232). -/
def dataPositions (g : Grid) (n : Nat) : List (Nat × Nat) :=
  (traversal n).filter fun p => match gridAt g p.1 p.2 with
    | some m => m.prov = .data
    | none => false

/-- The product of two polynomials over GF(2), written as numbers, the first of degree less than 6. -/
def polyMul (q g : Nat) : Nat :=
  (List.range 6).foldl (fun acc i => if q.testBit i then acc ^^^ (g * 2 ^ i) else acc) 0

/-- The order of R204 on the pairs (codeword index i, block b): codeword i of every block before codeword i + 1 of any, and for
one i the blocks ascending. -/
def EmittedBefore (p q : Nat × Nat) : Prop := p.1 < q.1 ∨ (p.1 = q.1 ∧ p.2 < q.2)

/-- In how many of the low 15 bits two numbers differ. -/
def bitDistance (x y : Nat) : Nat := (List.range 15).countP fun i => (x ^^^ y).testBit i

end Sys2Proof.Machine
end

