-- ==== Sys2Proof/Certificates/Slice0/Obligations.lean ====
section
/-! DEFINITION. The statements for the provers. Each docstring names the rules of spec/ that it formalises. -/

open Sys2Proof Sys2Proof.Machine

/-! ### Command words (spec/30_encoding.md) -/

/-- R90, R92, R93: decoding the word of a well-formed command gives the command back, and a word that decodes is the word of
the well-formed command it decodes to. -/
def Obligations.DecodeAndEncodeAgree : Prop :=
  (∀ i : Instr, i.WellFormed → decode (encode i) = .ok i) ∧
  ∀ (w : Word) (i : Instr), decode w = .ok i → i.WellFormed ∧ encode i = w

/-- R94, R309: which words are illegal, and what writing one to CMD does when no error is recorded: IllegalCommand, with the
word's OP field and the stage at that moment, and invalidation. -/
def Obligations.IllegalWordsRaiseIllegalCommand : Prop :=
  (∀ w : Word, (∃ e, decode w = .error e) ↔
    opField w ∉ [0x00, 0x01, 0x02, 0x10, 0x11, 0x12, 0x13, 0x14, 0x15, 0x16, 0x17, 0x20, 0x21, 0x22, 0x23, 0x28, 0x29] ∨
    zField w ≠ 0 ∨
    (opField w ∈ [0x00, 0x01, 0x02, 0x10, 0x11, 0x12, 0x13, 0x14, 0x15, 0x16, 0x17] ∧ (aField w ≠ 0 ∨ bField w ≠ 0)) ∨
    (opField w ∈ [0x22, 0x23, 0x28] ∧ bField w ≠ 0)) ∧
  ∀ (w : Word) (s : State) (e : DecodeError), decode w = .error e → s.errcode = .noError →
    execute w s = .next { invalidate s with errcode := .illegalCommand, errinfo := ⟨opField w, s.stage⟩ }

/-- R93 with the examples of R180, R182, R207, R208, R295: words written out from the encoding. -/
def Obligations.SampleWordsDecode : Prop :=
  decode 0x00000000 = .ok .nop ∧ decode 0x00000002 = .ok .encode ∧ decode 0x00000014 = .ok .mbuild ∧
  decode 0x00CA5320 = .ok (.gfmul 0x53 0xCA) ∧ decode 0x00000822 = .ok (.gfexp 8) ∧ decode 0x00000228 = .ok (.rsgen 2) ∧
  decode 0x00030329 = .ok (.rsblk 3 3) ∧ decode 0x00000100 = .error .nonzeroA ∧ decode 0x00000018 = .error .unknownOpcode

/-! ### Steps and the sequencer (spec/30_encoding.md, spec/60_exceptions.md) -/

/-- R91, R63, R21 (log 1): when the oldest pending transaction writes a word to CMD, the word decodes to the command i, and no
error is recorded or i is CLEAR or ENCODE, the step is exec of i on the state without that transaction; besides, the response
becomes OK. -/
def Obligations.StepRunsTheDecodedCommand : Prop :=
  ∀ (s : State) (w : Word) (rest : List HostEvent) (i : Instr),
    s.pending = commandEvent w :: rest → decode w = .ok i → (s.errcode = .noError ∨ i = .clear ∨ i = .encode) →
    ∃ t, exec i { s with pending := rest } = .next t ∧ step s = .next { t with response := some .ok }

/-- R312: while an error is recorded, every word but CLEAR and ENCODE changes nothing at all; those two run. -/
def Obligations.RecordedErrorGatesCommands : Prop :=
  (∀ (s : State) (w : Word), s.errcode ≠ .noError → w ≠ 0x00000001 → w ≠ 0x00000002 → execute w s = .next s) ∧
  ∀ s : State, execute 0x00000001 s = exec .clear s ∧ execute 0x00000002 s = exec .encode s

/-- R336, R340: every command and every step, in every state, answers a next state: nothing stops the block; a step with no
event pending changes nothing (the model's form: log 1). -/
def Obligations.EveryStepAnswers : Prop :=
  (∀ (i : Instr) (s : State), ∃ t, exec i s = .next t) ∧ (∀ s : State, ∃ t, step s = .next t) ∧
  ∀ s : State, s.pending = [] → step s = .next s

/-- R299, R316, R37, R46: no command writes LEVEL, FVER, TLEN, TEXT or RSIN; only the four GF commands write GFRES, and only
RSGEN and RSBLK write RSOUT. -/
def Obligations.CommandsKeepInputsAndScratch : Prop :=
  ∀ (i : Instr) (s t : State), exec i s = .next t →
    SameInputs s t ∧ (t.gfres ≠ s.gfres → opcode i ∈ [0x20, 0x21, 0x22, 0x23]) ∧
    (t.rsout ≠ s.rsout → opcode i ∈ [0x28, 0x29])

/-- R310, R316: a command that raises leaves STAGE and the result registers 0, the inputs and the scratch as they were; and
any command but ENCODE leaves exactly the invalidated state before it with the error and its own opcode and stage. -/
def Obligations.RaisedErrorsArePrecise : Prop :=
  ∀ (i : Instr) (s t : State), s.errcode = .noError → exec i s = .next t → t.errcode ≠ .noError →
    Invalidated t ∧ SameInputs s t ∧ t.gfres = s.gfres ∧ t.rsout = s.rsout ∧
    (i ≠ .encode → t = { invalidate s with errcode := t.errcode, errinfo := ⟨opcode i, s.stage⟩ })

/-- R308: each stage command tests STAGE first and raises SequenceFault at any stage but its own; no other command raises
it. -/
def Obligations.StageCommandsTestTheStage : Prop :=
  (∀ s : State, ∀ p ∈ [(Instr.segment, Stage.idle), (Instr.vselect, Stage.segmented), (Instr.pack, Stage.versioned),
      (Instr.rsenc, Stage.packed), (Instr.mbuild, Stage.coded), (Instr.mplace, Stage.built), (Instr.mselect, Stage.placed),
      (Instr.format, Stage.masked)],
    s.stage ≠ p.2 →
    exec p.1 s = .next { invalidate s with errcode := .sequenceFault, errinfo := ⟨opcode p.1, s.stage⟩ }) ∧
  (∀ (i : Instr) (s t : State),
    i ∉ [Instr.segment, .vselect, .pack, .rsenc, .mbuild, .mplace, .mselect, .format, .encode] →
    exec i s = .next t → t.errcode = .sequenceFault → s.errcode = .sequenceFault) ∧
  ∀ s t : State, exec .encode s = .next t → t.errcode ≠ .sequenceFault

/-- R311: the parameter tests of SEGMENT, VSELECT, RSGEN and RSBLK. -/
def Obligations.ParametersOutOfRangeRaiseBadParameter : Prop :=
  (∀ s : State, s.stage = .idle → (8192 < s.tlen.toNat ∨ 40 < s.fver.toNat) →
    exec .segment s = .next { invalidate s with errcode := .badParameter, errinfo := ⟨0x10, .idle⟩ }) ∧
  (∀ s : State, s.stage = .segmented → 40 < s.fver.toNat →
    exec .vselect s = .next { invalidate s with errcode := .badParameter, errinfo := ⟨0x11, .segmented⟩ }) ∧
  (∀ (s : State) (e : Nat), (e < 1 ∨ 30 < e) →
    exec (.rsgen e) s = .next { invalidate s with errcode := .badParameter, errinfo := ⟨0x28, s.stage⟩ }) ∧
  (∀ (s : State) (k e : Nat), (e < 1 ∨ 30 < e ∨ k < 1 ∨ 255 < k + e) →
    exec (.rsblk k e) s = .next { invalidate s with errcode := .badParameter, errinfo := ⟨0x29, s.stage⟩ })

/-! ### The GF(256) unit (spec/43_gf256.md) -/

/-- R177: GF(256) is a field under ⊕ (bitwise exclusive-or) and ⊗, and EXP and LOG are inverse to each other. -/
def Obligations.FieldLaws : Prop :=
  (∀ a b c : Byte,
    a ^^^ b = b ^^^ a ∧ (a ^^^ b) ^^^ c = a ^^^ (b ^^^ c) ∧ a ^^^ 0 = a ∧
    gmul a b = gmul b a ∧ gmul (gmul a b) c = gmul a (gmul b c) ∧ gmul a (b ^^^ c) = gmul a b ^^^ gmul a c ∧
    gmul a 1 = a ∧ gmul a 0 = 0 ∧ (gmul a b = 0 → a = 0 ∨ b = 0) ∧
    (b ≠ 0 → ∃ q, gdiv a b = some q ∧ gmul q b = a)) ∧
  (∀ a : Byte, a ≠ 0 → ∃ i, gfLog a = some i ∧ i ≤ 254 ∧ gfExp i = a) ∧
  ∀ i, i ≤ 254 → gfLog (gfExp i) = some i

/-- R176: the table-free multiplication agrees with the one by logarithms on all pairs. -/
def Obligations.TableFreeMultiplicationAgrees : Prop :=
  ∀ a b : Byte, gmulBits 8 a b.toNat = gmul a b

/-- R180: GFMUL writes the product of the polynomials A and B modulo p(x), computed bit by bit, to GFRES and nothing else. -/
def Obligations.GfmulResult : Prop :=
  ∀ (a b : Byte) (s : State), exec (.gfmul a b) s = .next { s with gfres := gmulBits 8 a b.toNat }

/-- R181: for B ≠ 0, GFDIV writes to GFRES the byte whose product with B is A, and nothing else; for B = 0 it raises
GfDomainFault. -/
def Obligations.GfdivResult : Prop :=
  ∀ (a b : Byte) (s : State),
    (b ≠ 0 → ∃ q, gmul q b = a ∧ exec (.gfdiv a b) s = .next { s with gfres := q }) ∧
    (b = 0 → exec (.gfdiv a b) s =
      .next { invalidate s with errcode := .gfDomainFault, errinfo := ⟨0x21, s.stage⟩ })

/-- R182, R183: GFEXP writes α^A to GFRES; for A ≠ 0 GFLOG writes the exponent 0..254 whose power of α is A, and for A = 0 it
raises GfDomainFault. Powers are taken by repeated multiplication by α (R172). -/
def Obligations.GfexpAndGflogResult : Prop :=
  (∀ (k : Nat) (s : State), exec (.gfexp k) s = .next { s with gfres := alphaPower k }) ∧
  ∀ (a : Byte) (s : State),
    (a ≠ 0 → ∃ i, i ≤ 254 ∧ alphaPower i = a ∧ exec (.gflog a) s = .next { s with gfres := BitVec.ofNat 8 i }) ∧
    (a = 0 → exec (.gflog a) s = .next { invalidate s with errcode := .gfDomainFault, errinfo := ⟨0x23, s.stage⟩ })

/-! ### The Reed-Solomon encoder (spec/44_reed_solomon.md) -/

/-- R192: g_E is monic, has E + 1 coefficients, and α^0 .. α^(E−1) are roots of it. -/
def Obligations.GeneratorHasConsecutiveRoots : Prop :=
  ∀ e : Nat, (generator e).length = e + 1 ∧ (generator e).head? = some 1 ∧
    ∀ i, i < e → peval (generator e) (gfExp i) = 0

/-- R198: the remainder is GF(256)-linear in the data; zero data give zero ecc; leading zero bytes do not matter; for the data
[01] it is the generator's listed coefficients. -/
def Obligations.RemainderIsLinear : Prop :=
  ∀ e : Nat,
    (∀ d d' : List Byte, d.length = d'.length →
      rsRemainder (List.zipWith (· ^^^ ·) d d') e = List.zipWith (· ^^^ ·) (rsRemainder d e) (rsRemainder d' e)) ∧
    (∀ (c : Byte) (d : List Byte), rsRemainder (d.map (gmul c)) e = (rsRemainder d e).map (gmul c)) ∧
    (∀ k : Nat, rsRemainder (List.replicate k 0) e = List.replicate e 0) ∧
    (∀ d : List Byte, rsRemainder (0 :: d) e = rsRemainder d e) ∧
    rsRemainder [1] e = generatorCoeffs e

/-- R199: the zero-syndrome law. A block followed by its ecc codewords, as a polynomial, vanishes at α^0 .. α^(E−1). -/
def Obligations.SyndromesAreZero : Prop :=
  ∀ (data : List Byte) (e i : Nat), i < e → peval (data ++ rsRemainder data e) (gfExp i) = 0

/-- R207: for E in 1..30, RSGEN writes the E listed coefficients of g_E to RSOUT and zeros after them, and nothing else. -/
def Obligations.RsgenResult : Prop :=
  ∀ (e : Nat) (s : State), 1 ≤ e → e ≤ 30 →
    ∃ t, exec (.rsgen e) s = .next t ∧ t = { s with rsout := t.rsout } ∧
      ∀ i : Fin 30, if i.val < e then (generatorCoeffs e)[i.val]? = some t.rsout[i] else t.rsout[i] = 0

/-- R208: for E in 1..30, K ≥ 1 and K + E ≤ 255, RSBLK writes the E ecc codewords of RSIN[0..K) to RSOUT and zeros after them,
and nothing else; the byte of RSIN it reads is the one the host wrote, where the host wrote one. -/
def Obligations.RsblkResult : Prop :=
  ∀ (k e : Nat) (s : State), 1 ≤ e → e ≤ 30 → 1 ≤ k → k + e ≤ 255 →
    ∃ t data, exec (.rsblk k e) s = .next t ∧ t = { s with rsout := t.rsout } ∧ data.length = k ∧
      (∀ i b, i < k → windowByte s (0x00300 + i) = some b → data[i]? = some b) ∧
      ∀ i : Fin 30, if i.val < e then (rsRemainder data e)[i.val]? = some t.rsout[i] else t.rsout[i] = 0

/-- R205: from a consistent state at stage 3, RSENC completes: the ecc codewords of every block to ECCB, the interleaved stream
to CW, STAGE to 4, and nothing else. -/
def Obligations.RsencResult : Prop :=
  ∀ s : State, Consistent s → s.stage = .packed →
    ∃ t ecc, blktab s.ver.toNat s.level.toNat = some t ∧ ecc = (dataBlocks t s.dcw).map (fun d => rsRemainder d t.e) ∧
      exec .rsenc s = .next { s with eccb := ecc, cw := interleave t (dataBlocks t s.dcw) ecc, stage := .coded }

/-- R204, R203, R210 (a): the codeword stream is the data codewords DCW[off(b) + i], off(b) the sizes of the blocks before b,
for every block b and i < K(b), then the ecc codewords ECCB[b][i] for every b and i < E, each pair (i, b) once and in the
order of R204: codeword i of every block before codeword i + 1 of any, blocks ascending. So it is a permutation of the data
codewords followed by a permutation of the ecc codewords. -/
def Obligations.InterleavingOrdersCodewords : Prop :=
  ∀ (v level : Nat) (t : BlkEntry) (dcw : List Byte) (ecc : List (List Byte)),
    blktab v level = some t → dcw.length = t.dcap → ecc.length = t.nblk → (∀ b ∈ ecc, b.length = t.e) →
    ∃ (d e : List Byte) (dataOrder eccOrder : List (Nat × Nat)),
      interleave t (dataBlocks t dcw) ecc = d ++ e ∧ d.Perm dcw ∧ e.Perm ecc.flatten ∧
      dataOrder.Pairwise EmittedBefore ∧ eccOrder.Pairwise EmittedBefore ∧
      (∀ i b, (i, b) ∈ dataOrder ↔ b < t.n1 + t.n2 ∧ i < if b < t.n1 then t.k1 else t.k2) ∧
      (∀ i b, (i, b) ∈ eccOrder ↔ b < t.n1 + t.n2 ∧ i < t.e) ∧
      d.map some = dataOrder.map (fun p =>
        dcw[((List.range p.2).map fun b => if b < t.n1 then t.k1 else t.k2).sum + p.1]?) ∧
      e.map some = eccOrder.map fun p => (ecc[p.2]?).bind (·[p.1]?)

/-! ### The Segmenter (spec/40_segmenter.md) -/

/-- R119, R121 (a), (b): at stage 0, with TLEN in 1..8192 and FVER at most 40, SEGMENT writes to SEGT a segmentation of the
text, the one of the segmentation function, to NSEG the number of its segments, and goes to stage 1; nothing else changes. -/
def Obligations.SegmentResult : Prop :=
  ∀ s : State, s.stage = .idle → s.tlen ≠ 0 → s.tlen.toNat ≤ 8192 → s.fver.toNat ≤ 40 →
    ∃ t, exec .segment s = .next t ∧ t = { s with segt := t.segt, nseg := t.nseg, stage := .segmented } ∧
      t.segt = segmentText (if s.fver = 0 then 1 else s.fver.toNat) (textSlice s 0 s.tlen.toNat) ∧
      t.nseg.toNat = t.segt.length ∧ SegmentsFrom (textSlice s 0 s.tlen.toNat) 0 t.segt

/-- R115: the segment list of a nonempty text is a segmentation of it, and no segmentation costs less. -/
def Obligations.SegmentationCostIsLeast : Prop :=
  ∀ (vs : Nat) (text : List Byte), text ≠ [] →
    SegmentsFrom text 0 (segmentText vs text) ∧
    ∀ list, SegmentsFrom text 0 list → segmentationCost vs (segmentText vs text) ≤ segmentationCost vs list

/-- R117: the tie-break. Of the candidates for the last segment the chosen one has the least cost; among equal costs the
smallest mode ordinal; among those the longest last segment. -/
def Obligations.TiesPreferSmallerModeThenLongerSegment : Prop :=
  ∀ (vs : Nat) (reversed : List (Nat × Byte)), reversed ≠ [] →
    ∃ c, bestCandidate vs reversed = some c ∧ IsCandidate vs reversed c ∧
      ∀ c', IsCandidate vs reversed c' →
        c.cost < c'.cost ∨
        (c.cost = c'.cost ∧ (c.mode.ordinal < c'.mode.ordinal ∨ (c.mode = c'.mode ∧ c'.count ≤ c.count)))

/-- R118: the empty text gives one segment of no characters: Byte for vs up to 9, Alphanumeric above. -/
def Obligations.EmptyTextGivesOneEmptySegment : Prop :=
  ∀ s : State, s.stage = .idle → s.tlen = 0 → s.fver.toNat ≤ 40 →
    exec .segment s = .next { s with
      segt := [⟨if segmentationVersion s ≤ 9 then .byte else .alphanumeric, 0, 0⟩], nseg := 1, stage := .segmented }

/-! ### The Version Selector (spec/41_version_selector.md) -/

/-- R138: at stage 1, with FVER at most 40, if v is the forced version and fits, or none is forced and v is the least version
that fits, VSELECT writes the results of v and goes to stage 2; nothing else changes. -/
def Obligations.VselectResult : Prop :=
  ∀ (s : State) (v : Nat), s.stage = .segmented → s.fver.toNat ≤ 40 → Chosen s (segments s) v →
    ∃ t entry total bits, exec .vselect s = .next t ∧
      t = { s with ver := t.ver, side := t.side, bitlen := t.bitlen, dlen := t.dlen, clen := t.clen, nblk := t.nblk
                   stage := .versioned } ∧
      blktab v s.level.toNat = some entry ∧ totcw v = some total ∧ required v (segments s) = some bits ∧
      t.ver.toNat = v ∧ t.side.toNat = 4 * v + 17 ∧ t.bitlen.toNat = bits ∧
      t.dlen.toNat = entry.n1 * entry.k1 + entry.n2 * entry.k2 ∧ t.clen.toNat = total ∧
      t.nblk.toNat = entry.n1 + entry.n2

/-- R138: a forced version that does not fit raises VersionTooSmall; if none is forced and none of 1..40 fits, DataTooLong. -/
def Obligations.VselectErrors : Prop :=
  (∀ s : State, s.stage = .segmented → s.fver ≠ 0 → s.fver.toNat ≤ 40 →
    fits (segments s) s.level.toNat s.fver.toNat = false →
    exec .vselect s = .next { invalidate s with errcode := .versionTooSmall, errinfo := ⟨0x11, .segmented⟩ }) ∧
  ∀ s : State, s.stage = .segmented → s.fver = 0 →
    (∀ v, 1 ≤ v → v ≤ 40 → fits (segments s) s.level.toNat v = false) →
    exec .vselect s = .next { invalidate s with errcode := .dataTooLong, errinfo := ⟨0x11, .segmented⟩ }

/-- R142: the NOFIT test never decides: where a count of at most 8192 does not fit its field, the bits exceed the capacity
anyway. -/
def Obligations.NofitNeverDecides : Prop :=
  ∀ (v level : Nat) (t : BlkEntry) (list : List Segment), blktab v level = some t → (∀ g ∈ list, g.count ≤ 8192) →
    required v list = none →
    8 * t.dcap < (list.map fun g => 4 + countWidth g.mode v + payloadBits g.mode g.count).sum

/-! ### The Bit Stream Encoder (spec/42_bit_stream_packer.md) -/

/-- R160, R162: from a consistent state at stage 2, PACK completes: DCW holds DLEN bytes, whose first BITLEN bits are the
segments' bits, then zeros to the byte in which the terminator ends, then 0xEC and 0x11 by turns; STAGE goes to 3, and nothing
else changes. -/
def Obligations.PackResult : Prop :=
  ∀ s : State, Consistent s → s.stage = .versioned →
    ∃ t k, exec .pack s = .next t ∧ t = { s with dcw := t.dcw, stage := .packed } ∧ t.dcw.length = s.dlen.toNat ∧
      (segmentStream s).length = s.bitlen.toNat ∧
      k = (s.bitlen.toNat + min 4 (8 * s.dlen.toNat - s.bitlen.toNat) + 7) / 8 ∧
      (∀ b, b < s.bitlen.toNat → (streamBits t.dcw)[b]? = (segmentStream s)[b]?) ∧
      (∀ b, s.bitlen.toNat ≤ b → b < 8 * k → (streamBits t.dcw)[b]? = some false) ∧
      ∀ j, k ≤ j → j < s.dlen.toNat → t.dcw[j]? = some (if (j - k) % 2 = 0 then 0xEC else 0x11)

/-! ### The Matrix Builder (spec/45_matrix_builder.md) -/

/-- R228: from a consistent state at stage 4, MBUILD completes: the built grid to MOD and PROV, STAGE to 5, and nothing
else. -/
def Obligations.MbuildResult : Prop :=
  ∀ s : State, Consistent s → s.stage = .coded →
    exec .mbuild s = .next { s with modules := builtGrid s.ver.toNat (4 * s.ver.toNat + 17), stage := .built }

/-- R217: the built grid has the three finder patterns. -/
def Obligations.BuiltGridHasFinders : Prop :=
  ∀ v, 1 ≤ v → v ≤ 40 → HasFinders (builtGrid v (sideOf v)) (sideOf v)

/-- R218, R219, R220, R222, R223: the separators, the timing patterns, the alignment patterns and the dark module of the built
grid. -/
def Obligations.BuiltGridHasFunctionPatterns : Prop :=
  ∀ v n, 1 ≤ v → v ≤ 40 → n = sideOf v →
    (∀ k, k < 8 → ∀ p ∈ ([(7, k), (k, 7), (7, n - 8 + k), (k, n - 8), (n - 8, k), (n - 8 + k, 7)] : List (Nat × Nat)),
      gridAt (builtGrid v n) p.1 p.2 = some ⟨false, .function⟩) ∧
    (∀ i, 8 ≤ i → i + 9 ≤ n →
      gridAt (builtGrid v n) 6 i = some ⟨i % 2 = 0, .function⟩ ∧
      gridAt (builtGrid v n) i 6 = some ⟨i % 2 = 0, .function⟩) ∧
    (∀ ar ∈ alignmentCoordinates v, ∀ ac ∈ alignmentCoordinates v,
      (ar, ac) ∉ [(6, 6), (6, n - 7), (n - 7, 6)] → ∀ i, i < 5 → ∀ j, j < 5 →
      gridAt (builtGrid v n) (ar - 2 + i) (ac - 2 + j) =
        some ⟨i = 0 ∨ i = 4 ∨ j = 0 ∨ j = 4 ∨ (i = 2 ∧ j = 2), .function⟩) ∧
    gridAt (builtGrid v n) (n - 8) 8 = some ⟨true, .function⟩

/-- R224, R225: the format and version information modules of the built grid are Light and Format, and no other module is
Format. -/
def Obligations.BuiltGridReservesInformationModules : Prop :=
  ∀ v n, 1 ≤ v → v ≤ 40 → n = sideOf v →
    (∀ p ∈ formatPositions n ++ versionPositions v n, gridAt (builtGrid v n) p.1 p.2 = some ⟨false, .format⟩) ∧
    ∀ r c m, gridAt (builtGrid v n) r c = some m → m.prov = .format → (r, c) ∈ formatPositions n ++ versionPositions v n

/-- R226, R229: the built grid has RAWMOD(v) Data modules, 30 or 66 Format modules, and the rest of n² are Function: none is
unclaimed. -/
def Obligations.BuiltGridModuleCounts : Prop :=
  ∀ v, 1 ≤ v → v ≤ 40 →
    rawmod v = some (provenanceCount .data (builtGrid v (sideOf v))) ∧
    provenanceCount .format (builtGrid v (sideOf v)) = (if v ≤ 6 then 30 else 66) ∧
    provenanceCount .reservedUnused (builtGrid v (sideOf v)) = 0 ∧
    provenanceCount .function (builtGrid v (sideOf v)) + provenanceCount .format (builtGrid v (sideOf v)) +
      provenanceCount .data (builtGrid v (sideOf v)) = sideOf v * sideOf v

/-- R232, R233: the traversal of a matrix visits every module outside column 6 exactly once, and no module of column 6. -/
def Obligations.TraversalVisitsEachModuleOnce : Prop :=
  ∀ v, (traversal (sideOf v)).Nodup ∧
    ∀ r c, (r, c) ∈ traversal (sideOf v) ↔ r < sideOf v ∧ c < sideOf v ∧ c ≠ 6

/-- R231, R234: from a consistent state at stage 5, MPLACE completes: along the traversal the j-th Data module takes bit j of
the codeword stream, 0 after its end; every other module and every provenance stays; STAGE goes to 6; nothing else changes. -/
def Obligations.MplaceResult : Prop :=
  ∀ s : State, Consistent s → s.stage = .built →
    ∃ (t : State) (positions : List (Nat × Nat)), exec .mplace s = .next t ∧
      t = { s with modules := t.modules, stage := .placed } ∧
      positions = dataPositions s.modules s.side.toNat ∧ rawmod s.ver.toNat = some positions.length ∧
      (∀ (j : Nat) (p : Nat × Nat), positions[j]? = some p →
        gridAt t.modules p.1 p.2 = some ⟨((streamBits s.cw)[j]?).getD false, .data⟩) ∧
      ∀ r c, (r, c) ∉ positions → gridAt t.modules r c = gridAt s.modules r c

/-! ### The Mask Selector (spec/46_mask_selector.md) -/

/-- R247: masking inverts exactly the Data modules at which the formula holds, leaves every other module and every provenance,
and done twice it restores the matrix. -/
def Obligations.MaskingInvertsDataModules : Prop :=
  ∀ (g : Grid) (m : Fin 8),
    (∀ r c, gridAt (masked g m) r c = (gridAt g r c).map fun x =>
      if x.prov = .data ∧ maskBit m r c = true then ⟨!x.dark, x.prov⟩ else x) ∧
    masked (masked g m) m = g

/-- R255, R256, R260: at stage 6, MSELECT writes to SCORE0..7 the scores of the eight trials, commits the matrix under the least
mask of least score, writes the mask to MASK and goes to stage 7; nothing else changes. -/
def Obligations.MselectResult : Prop :=
  ∀ s : State, s.stage = .placed →
    ∃ (t : State) (w : Fin 8), exec .mselect s = .next t ∧
      t = { s with scores := t.scores, modules := masked (gridOf s) w, mask := t.mask, stage := .masked } ∧
      t.mask.toNat = w.val ∧
      (∀ m : Fin 8, t.scores[m].toNat = score s.side.toNat (colours (masked (gridOf s) m))) ∧
      (∀ m : Fin 8, t.scores[w].toNat ≤ t.scores[m].toNat) ∧
      ∀ m : Fin 8, m < w → t.scores[w].toNat < t.scores[m].toNat

/-- R259: the bounds of the four penalties and of the score for an n × n matrix with n ≤ 177. -/
def Obligations.ScoresAreBounded : Prop :=
  ∀ (n : Nat) (m : List (List Bool)), n ≤ 177 → m.length = n → (∀ row ∈ m, row.length = n) →
    penaltyN1 m ≤ 2 * n * (n - 2) ∧ penaltyN2 m ≤ 3 * (n - 1) ^ 2 ∧ penaltyN3 m ≤ 40 * 2 * n * (n - 10) ∧
    penaltyN4 (darkCount m) (n * n) ≤ 100 ∧ score n m < 2 ^ 22

/-! ### The Format/Version Info Encoder (spec/47_format_info.md) -/

/-- R270, R274, R278: from a consistent state at stage 7, FORMAT completes: bit i of the format word at both its positions, for
version 7 and above bit i of the version word at both its positions, every other module as before, STAGE to 8; nothing else
changes. -/
def Obligations.FormatResult : Prop :=
  ∀ s : State, Consistent s → s.stage = .masked →
    ∃ t n, exec .format s = .next t ∧ t = { s with modules := t.modules, stage := .final } ∧ n = s.side.toNat ∧
      (∀ i p, (formatPositions1[i]? = some p ∨ (formatPositions2 n)[i]? = some p) →
        gridAt t.modules p.1 p.2 = some ⟨(formatWord s.level.toNat s.mask.toNat).testBit i, .format⟩) ∧
      (7 ≤ s.ver.toNat → ∀ i p, ((versionPositions1 n)[i]? = some p ∨ (versionPositions2 n)[i]? = some p) →
        gridAt t.modules p.1 p.2 = some ⟨(versionWord s.ver.toNat).testBit i, .format⟩) ∧
      ∀ r c, (r, c) ∉ formatPositions n ++ versionPositions s.ver.toNat n →
        gridAt t.modules r c = gridAt s.modules r c

/-- R276: every format word, unmasked, is a multiple of G15; no format word is 0; two different ones differ in at least 7 of
the 15 bits. Besides, what R271 to R273 and R277 make of the words: the unmasked format word has the level code (1, 0, 3, 2
for L, M, Q, H) and the mask in bits 14..10; every version word is a multiple of G18 = 0x1F25 with the version in bits
17..12. A multiple of the generator is fixed by these high bits. -/
def Obligations.FormatAndVersionWordsAreCodewords : Prop :=
  (∀ l, l < 4 → ∀ m, m < 8 →
    (∃ q, q < 32 ∧ formatWord l m ^^^ 0x5412 = polyMul q 0x537) ∧ formatWord l m ≠ 0 ∧
    some ((formatWord l m ^^^ 0x5412) / 1024) = ([1, 0, 3, 2][l]?).map (8 * · + m) ∧
    ∀ l', l' < 4 → ∀ m', m' < 8 → (l, m) ≠ (l', m') → 7 ≤ bitDistance (formatWord l m) (formatWord l' m')) ∧
  ∀ v, 7 ≤ v → v ≤ 40 →
    (∃ q, q < 64 ∧ versionWord v = polyMul q 0x1F25) ∧ versionWord v / 4096 = v

/-! ### The control commands (spec/48_control.md) -/

/-- R290, R292: NOP changes nothing; CLEAR sets ERRCODE, ERRINFO, STAGE and the result registers to 0 and changes nothing
else. -/
def Obligations.NopAndClearResult : Prop :=
  ∀ s : State, exec .nop s = .next s ∧
    exec .clear s = .next { s with
      errcode := .noError, errinfo := ⟨0, .idle⟩, stage := .idle, ver := 0, side := 0, mask := 0, nseg := 0, bitlen := 0
      dlen := 0, clen := 0, nblk := 0, scores := Vector.replicate 8 0 }

/-- R297: ENCODE and the nine commands CLEAR, SEGMENT, .., FORMAT issued blindly leave the same state. R297 says so of every
register and every specified buffer byte; that the unspecified entries of the buffers' lists are equal too is the model's
choice (log 11). -/
def Obligations.EncodeIsTheNineCommands : Prop :=
  ∀ s : State, execute 0x00000002 s =
    executeAll [0x00000001, 0x00000010, 0x00000011, 0x00000012, 0x00000013, 0x00000014, 0x00000015, 0x00000016,
      0x00000017] s

/-- R299 (2), R296, R298, R306, R307: ENCODE from any state ends at stage 8 with no error and STATUS 0x28, or at stage 0 with
every result register 0 and STATUS 0x10, for one of three reasons; the internal faults never occur. -/
def Obligations.EncodeOutcomes : Prop :=
  ∀ s t : State, exec .encode s = .next t →
    (t.stage = .final ∧ t.errcode = .noError ∧ statusWord t = 0x28) ∨
    (Invalidated t ∧ statusWord t = 0x10 ∧
      ((t.errcode = .badParameter ∧ t.errinfo = ⟨0x10, .idle⟩ ∧ (8192 < s.tlen.toNat ∨ 40 < s.fver.toNat)) ∨
       (t.errcode = .dataTooLong ∧ t.errinfo = ⟨0x11, .segmented⟩ ∧ s.fver = 0) ∨
       (t.errcode = .versionTooSmall ∧ t.errinfo = ⟨0x11, .segmented⟩ ∧ s.fver ≠ 0)))

/-- R299 (7): ENCODE answers a next state, at stage 8 exactly when TLEN ≤ 8192, FVER ≤ 40, and the forced version, or some
version if none is forced, holds the segment list of the text. -/
def Obligations.EncodeSucceedsExactlyPerCapacity : Prop :=
  ∀ s : State, ∃ t, exec .encode s = .next t ∧
    (t.stage = .final ↔ s.tlen.toNat ≤ 8192 ∧ s.fver.toNat ≤ 40 ∧
      ∃ v, (s.fver ≠ 0 → v = s.fver.toNat) ∧ fits (inputSegments s) s.level.toNat v = true)

/-- R299 (1), (3): ENCODE is a function of LEVEL, FVER, TLEN and TEXT[0..TLEN): two states that agree on these give the same
registers, error and result windows, whatever else differs (the byte a text position holds where the host wrote none is the
free value of log 5). -/
def Obligations.EncodeIsDeterministic : Prop :=
  ∀ s s' t t' : State, s.level = s'.level → s.fver = s'.fver → s.tlen = s'.tlen →
    (∀ i, i < s.tlen.toNat → textAt s i = textAt s' i) → exec .encode s = .next t → exec .encode s' = .next t' →
    t.stage = t'.stage ∧ t.errcode = t'.errcode ∧ t.errinfo = t'.errinfo ∧ t.ver = t'.ver ∧ t.side = t'.side ∧
    t.mask = t'.mask ∧ t.nseg = t'.nseg ∧ t.bitlen = t'.bitlen ∧ t.dlen = t'.dlen ∧ t.clen = t'.clen ∧
    t.nblk = t'.nblk ∧ t.scores = t'.scores ∧
    ∀ a, region a ∈ [some .segt, some .dcw, some .eccb, some .cw, some .mod] → windowByte t a = windowByte t' a

/-- R299 (4), (5), (6): on success the matrix is square of side 4·VER + 17 with the three finder patterns, VER is the forced
version or, with none forced, the least version that holds the segment list, and the inputs are unchanged. -/
def Obligations.EncodedSymbolShape : Prop :=
  ∀ s t : State, exec .encode s = .next t → t.stage = .final →
    t.side.toNat = 4 * t.ver.toNat + 17 ∧ t.modules.length = t.side.toNat ∧
    (∀ row ∈ t.modules, row.length = t.side.toNat) ∧ HasFinders t.modules t.side.toNat ∧
    Chosen s (inputSegments s) t.ver.toNat ∧ SameInputs s t

/-! ### Invariants (spec/10_state.md) -/

/-- R51, R52: the reset state is consistent, so the invariants hold in it. -/
def Obligations.ResetStateIsConsistent : Prop :=
  Inv State.reset ∧ Consistent State.reset

/-- R52, R24, R26, R48: every step keeps the invariants. -/
def Obligations.StepKeepsInvariants : Prop :=
  ∀ s t : State, Inv s → step s = .next t → Inv t

/-- R306, R307, R79: every step keeps the agreement of registers and buffers, so no step raises an internal fault. -/
def Obligations.StepKeepsConsistency : Prop :=
  ∀ s t : State, Consistent s → step s = .next t → Consistent t

/-! ### The port and reset (spec/20_memory.md, spec/70_reset_and_hazards.md) -/

/-- R66: a transaction answers ERR in exactly three cases, and then changes nothing but the response. -/
def Obligations.PortErrorsAreThreeCases : Prop :=
  ∀ (t : Transaction) (s u : State), transact t s = .next u →
    (u.response = some .err ↔
      (transactionBytes t = 4 ∧ transactionAddress t % 4 ≠ 0) ∨
      (∃ k, k < transactionBytes t ∧ region (transactionAddress t + k) = none) ∨
      (transactionBytes t = 1 ∧ region (transactionAddress t) = some .reg)) ∧
    (u.response = some .err → u = { s with response := some .err })

/-- R67: reserved offsets of the register block read 0, and writes to them and to read-only registers are ignored. So are
writes of a byte anywhere, or of a word at a multiple of 4, in the read-only windows (the last line of R63; R64, R66). -/
def Obligations.ReadOnlyLocationsIgnoreWrites : Prop :=
  (∀ (s : State) (a : Addr), a.toNat < 0x100 → a.toNat % 4 = 0 →
    (a.toNat ∉ [0x00, 0x10, 0x14, 0x18] → ∀ v, transact (.writeWord a v) s = .next { s with response := some .ok }) ∧
    (a.toNat = 0x1C ∨ 0x68 ≤ a.toNat → transact (.read a .four) s = .next { s with response := some (.okWord 0) })) ∧
  ∀ (s : State) (a : Addr),
    (0x00100 ≤ a.toNat ∧ a.toNat < 0x00300) ∨ (0x00400 ≤ a.toNat ∧ a.toNat < 0x00420) ∨
      (0x04000 ≤ a.toNat ∧ a.toNat < 0x07000) ∨ (0x10000 ≤ a.toNat ∧ a.toNat < 0x18000) ∨
      (0x20000 ≤ a.toNat ∧ a.toNat < 0x30000) →
    (∀ v : Byte, transact (.writeByte a v) s = .next { s with response := some .ok }) ∧
    (a.toNat % 4 = 0 → ∀ v : Word, transact (.writeWord a v) s = .next { s with response := some .ok })

/-- R73, R62, R68, R47: a read changes no state of the block; a specified byte is read as it is, an unspecified byte of a window
is a free value, fresh at each read (the model's form: log 4), and a word is four bytes, the lowest address least significant. -/
def Obligations.ReadsChangeNothing : Prop :=
  (∀ (a : Addr) (size : AccessSize) (s u : State), transact (.read a size) s = .next u →
    u = { s with response := u.response, draws := u.draws }) ∧
  (∀ (a : Addr) (s : State) (b : Byte), windowByte s a.toNat = some b →
    transact (.read a .one) s = .next { s with response := some (.okByte b) }) ∧
  (∀ (a : Addr) (s : State), region a.toNat ≠ none → region a.toNat ≠ some .reg → windowByte s a.toNat = none →
    transact (.read a .one) s =
      .next { s with response := some (.okByte (Config.freeByte s.draws)), draws := s.draws + 1 }) ∧
  ∀ (a : Addr) (s : State) (b0 b1 b2 b3 : Byte), a.toNat % 4 = 0 → windowByte s a.toNat = some b0 →
    windowByte s (a.toNat + 1) = some b1 → windowByte s (a.toNat + 2) = some b2 → windowByte s (a.toNat + 3) = some b3 →
    transact (.read a .four) s = .next { s with response := some (.okWord (b3 ++ b2 ++ b1 ++ b0)) }

/-- R20 to R23, R38: what a host read of every register gives: CMD reads 0, STATUS, ERRCODE and ERRINFO by their fields, the
others their value at their own offset, ID its constant. -/
def Obligations.RegisterReads : Prop :=
  ∀ s : State, ∃ status errinfo : Word,
    transact (.read 0x04 .four) s = .next { s with response := some (.okWord status) } ∧
    status.toNat % 16 = s.stage.code ∧ status.getLsbD 4 = decide (s.errcode ≠ .noError) ∧
    status.getLsbD 5 = decide (s.stage = .final) ∧ status.toNat < 64 ∧
    transact (.read 0x08 .four) s = .next { s with response := some (.okWord (BitVec.ofNat 32 s.errcode.code)) } ∧
    transact (.read 0x0C .four) s = .next { s with response := some (.okWord errinfo) } ∧
    errinfo.toNat = s.errinfo.op.toNat + 256 * s.errinfo.stage.code ∧
    transact (.read 0x64 .four) s = .next { s with response := some (.okWord 0x51524531) } ∧
    transact (.read 0x00 .four) s = .next { s with response := some (.okWord 0) } ∧
    (∀ p ∈ ([(0x10, s.level.toNat), (0x14, s.fver.toNat), (0x18, s.tlen.toNat), (0x20, s.ver.toNat), (0x24, s.side.toNat),
        (0x28, s.mask.toNat), (0x2C, s.nseg.toNat), (0x30, s.bitlen.toNat), (0x34, s.dlen.toNat), (0x38, s.clen.toNat),
        (0x3C, s.nblk.toNat), (0x60, s.gfres.toNat)] : List (Addr × Nat)),
      transact (.read p.1 .four) s = .next { s with response := some (.okWord (BitVec.ofNat 32 p.2)) }) ∧
    ∀ m : Fin 8, transact (.read (BitVec.ofNat 20 (0x40 + 4 * m.val)) .four) s =
      .next { s with response := some (.okWord s.scores[m]) }

/-- R26, R63: a write to LEVEL, FVER or TLEN stores the bits of the field, whatever the value, and invalidates; a later read
returns the field zero-extended. -/
def Obligations.ParameterWritesStoreAndInvalidate : Prop :=
  ∀ (s : State) (v : Word), ∃ u1 u2 u3 : State,
    transact (.writeWord 0x10 v) s = .next u1 ∧
    u1 = invalidate { s with level := v.extractLsb' 0 2, response := some .ok } ∧
    transact (.read 0x10 .four) u1 = .next { u1 with response := some (.okWord (v &&& 0x3)) } ∧
    transact (.writeWord 0x14 v) s = .next u2 ∧
    u2 = invalidate { s with fver := v.extractLsb' 0 6, response := some .ok } ∧
    transact (.read 0x14 .four) u2 = .next { u2 with response := some (.okWord (v &&& 0x3F)) } ∧
    transact (.writeWord 0x18 v) s = .next u3 ∧
    u3 = invalidate { s with tlen := v.extractLsb' 0 14, response := some .ok } ∧
    transact (.read 0x18 .four) u3 = .next { u3 with response := some (.okWord (v &&& 0x3FFF)) }

/-- R63, R68, R40, R46: a write of a byte, or of a word at a multiple of 4, to TEXT or RSIN stores its bytes, the least
significant at the lowest address; every other byte of the two buffers stays; a write to TEXT also invalidates; nothing else
changes. -/
def Obligations.BufferWritesStoreBytes : Prop :=
  ∀ (a : Addr) (s : State), region a.toNat = some .text ∨ region a.toNat = some .rsin →
    (∀ v : Byte, ∃ u, transact (.writeByte a v) s = .next u ∧ windowByte u a.toNat = some v ∧
      (∀ b, b ≠ a.toNat → region b = some .text ∨ region b = some .rsin → windowByte u b = windowByte s b) ∧
      u = (if region a.toNat = some .text then invalidate { s with mem := u.mem, response := some .ok }
        else { s with mem := u.mem, response := some .ok })) ∧
    ∀ w : Word, a.toNat % 4 = 0 → ∃ u, transact (.writeWord a w) s = .next u ∧
      (∀ k, k < 4 → windowByte u (a.toNat + k) = some (w.extractLsb' (8 * k) 8)) ∧
      (∀ b, b < a.toNat ∨ a.toNat + 4 ≤ b → region b = some .text ∨ region b = some .rsin →
        windowByte u b = windowByte s b) ∧
      u = (if region a.toNat = some .text then invalidate { s with mem := u.mem, response := some .ok }
        else { s with mem := u.mem, response := some .ok })

/-- R72: the GFEXP and GFLOG windows, in any state. -/
def Obligations.GfWindowsShowTheTables : Prop :=
  ∀ (s : State) (i : Nat), i < 256 →
    windowByte s (0x00100 + i) = some (alphaPower (i % 255)) ∧
    (i = 0 → windowByte s (0x00200 + i) = some 0xFF) ∧
    (i ≠ 0 → ∃ l, l ≤ 254 ∧ alphaPower l = BitVec.ofNat 8 i ∧ windowByte s (0x00200 + i) = some (BitVec.ofNat 8 l))

/-- R69, R70, R71, R64, R47 (b), R24: the layouts of the result windows inside their extents and stages, and of RSOUT at every
stage; every byte of a result window below its producer's stage or outside its extent is unspecified. -/
def Obligations.ResultWindowLayouts : Prop :=
  ∀ s : State,
    (∀ q g k, 1 ≤ s.stage.code → q < s.nseg.toNat → q < 8192 → s.segt[q]? = some g → k < 4 →
      windowByte s (0x10000 + 4 * q + k) =
        some ((BitVec.ofNat 32 (g.mode.ordinal + 4 * g.start + 65536 * g.count)).extractLsb' (8 * k) 8)) ∧
    (∀ r c m, 5 ≤ s.stage.code → r < s.side.toNat → c < s.side.toNat → gridAt s.modules r c = some m →
      windowByte s (0x20000 + 256 * r + c) = some (BitVec.ofNat 8 (m.dark.toNat + 2 * m.prov.code))) ∧
    (∀ i b, 3 ≤ s.stage.code → i < s.dlen.toNat → s.dcw[i]? = some b → windowByte s (0x04000 + i) = some b) ∧
    (∀ i b, 4 ≤ s.stage.code → i < s.clen.toNat → s.cw[i]? = some b → windowByte s (0x05000 + i) = some b) ∧
    (∀ t q i row b, 4 ≤ s.stage.code → blktab s.ver.toNat s.level.toNat = some t → q < s.nblk.toNat → i < t.e →
      s.eccb[q]? = some row → row[i]? = some b → windowByte s (0x06000 + 32 * q + i) = some b) ∧
    (∀ i : Fin 30, windowByte s (0x00400 + i.val) = some s.rsout[i]) ∧
    (∀ i, i = 30 ∨ i = 31 → windowByte s (0x00400 + i) = some 0) ∧
    (∀ a, s.stage = .idle → region a ∈ [some .segt, some .dcw, some .eccb, some .cw, some .mod] → windowByte s a = none) ∧
    (∀ q k, q < 8192 → k < 4 → s.stage.code < 1 ∨ s.nseg.toNat ≤ q → windowByte s (0x10000 + 4 * q + k) = none) ∧
    (∀ i, i < 4096 → s.stage.code < 3 ∨ s.dlen.toNat ≤ i → windowByte s (0x04000 + i) = none) ∧
    (∀ i, i < 4096 → s.stage.code < 4 ∨ s.clen.toNat ≤ i → windowByte s (0x05000 + i) = none) ∧
    (∀ q i, q < 128 → i < 32 →
      s.stage.code < 4 ∨ s.nblk.toNat ≤ q ∨ (∀ t, blktab s.ver.toNat s.level.toNat = some t → t.e ≤ i) →
      windowByte s (0x06000 + 32 * q + i) = none) ∧
    ∀ r c, r < 256 → c < 256 → s.stage.code < 5 ∨ s.side.toNat ≤ r ∨ s.side.toNat ≤ c →
      windowByte s (0x20000 + 256 * r + c) = none

/-- R330, R51 (log 2): reset, as an event between transactions, leaves the reset state; what the host asks next, the number of
draws so far and a new set of unspecified contents are the model's own. -/
def Obligations.ResetEventResets : Prop :=
  ∀ (s : State) (rest : List HostEvent), s.pending = .reset :: rest →
    ∃ t, step s = .next t ∧
      t = { State.reset with pending := rest, draws := s.draws, resets := s.resets + 1 } ∧
      ∀ a, region a ∈ [some .text, some .rsin, some .segt, some .dcw, some .eccb, some .cw, some .mod] →
        windowByte t a = none
end

