-- ==== Sys2Proof/Laws/Blocks.lean ====
section
/-! SUPPORT. The block tables (R133, R134), and the lengths of polynomials, remainders and interleaved streams. -/

namespace Sys2Proof.Machine

/-- What every entry of BLKTAB satisfies (R134): the block sums are TOTCW and DCAP, the sizes fit the registers, long blocks
are one byte longer than short ones, and a block with its ecc codewords has at most 153 bytes. -/
def blkEntryOk (v : Nat) (t : BlkEntry) : Bool :=
  decide (totcw v = some (t.n1 * (t.k1 + t.e) + t.n2 * (t.k2 + t.e)))
    && decide (1 ≤ t.e) && decide (t.e ≤ 30) && decide (1 ≤ t.n1) && decide (1 ≤ t.k1)
    && (decide (t.n2 = 0 ∧ t.k2 = 0) || decide (1 ≤ t.n2 ∧ t.k2 = t.k1 + 1))
    && decide (t.k1 + t.e ≤ 153) && decide (t.k2 + t.e ≤ 153)
    && decide (9 ≤ t.dcap) && decide (t.dcap ≤ 2956) && decide (t.nblk ≤ 81)

theorem blkRows_ok : ((List.range' 1 40).all fun v => (List.range 4).all fun level =>
    (blktab v level).elim false (blkEntryOk v)) = true := by decide +kernel

/-- There is an entry for each version 1..40 and level, and none besides (R134). -/
theorem blktab_isSome_iff (v level : Nat) : (blktab v level).isSome = true ↔ 1 ≤ v ∧ v ≤ 40 ∧ level < 4 := by
  have hrow : ∀ row ∈ blkRows, row.length = 4 := by decide +kernel
  have hlen : blkRows.length = 40 := by decide +kernel
  unfold blktab
  by_cases h0 : v = 0
  · simp [h0]
  · rw [if_neg h0]
    by_cases h40 : v - 1 < 40
    · have hget : blkRows[v - 1]? = some (blkRows[v - 1]'(hlen ▸ h40)) := List.getElem?_eq_getElem _
      rw [hget, Option.bind_some]
      have h4 := hrow _ (List.getElem_mem (hlen ▸ h40 : v - 1 < blkRows.length))
      by_cases hl : level < 4
      · rw [List.getElem?_eq_getElem (by omega)]
        simp only [Option.isSome_some, true_iff]
        omega
      · rw [List.getElem?_eq_none (by omega)]
        simp only [Option.isSome_none, Bool.false_eq_true, false_iff]
        omega
    · rw [List.getElem?_eq_none (by omega)]
      simp only [Option.bind_none, Option.isSome_none, Bool.false_eq_true, false_iff]
      omega

/-- Every entry of the table has the properties of R134. -/
theorem blktab_ok {v level : Nat} {t : BlkEntry} (h : blktab v level = some t) : blkEntryOk v t = true := by
  obtain ⟨h1, h40, h4⟩ := (blktab_isSome_iff v level).1 (by rw [h]; rfl)
  have hall := List.all_eq_true.1 (List.all_eq_true.1 blkRows_ok v (List.mem_range'_1.2 ⟨h1, by omega⟩)) level
    (List.mem_range.2 h4)
  rwa [h] at hall

/-- The data and ecc codewords of all blocks make up TOTCW (R134, R204). -/
theorem blktab_total {v level : Nat} {t : BlkEntry} (h : blktab v level = some t) :
    totcw v = some (t.dcap + t.nblk * t.e) := by
  have hok := blktab_ok h
  simp only [blkEntryOk, Bool.and_eq_true, decide_eq_true_iff] at hok
  rw [hok.1.1.1.1.1.1.1.1.1.1, BlkEntry.dcap, BlkEntry.nblk]
  congr 1
  ring

theorem xorLeft_length (xs ys : List Byte) : (xorLeft xs ys).length = max xs.length ys.length := by
  induction xs generalizing ys with
  | nil => simp [xorLeft]
  | cons x xs ih =>
    cases ys with
    | nil => simp [xorLeft]
    | cons y ys => simp only [xorLeft, List.length_cons, ih]; omega

theorem pmul_length (a b : List Byte) (ha : a ≠ []) (hb : b ≠ []) : (pmul a b).length + 1 = a.length + b.length := by
  induction a with
  | nil => exact absurd rfl ha
  | cons x xs ih =>
    have hb1 : 1 ≤ b.length := List.length_pos_iff.2 hb
    rw [pmul, xorLeft_length, List.length_map, List.length_cons, List.length_cons]
    by_cases hx : xs = []
    · simp only [hx, pmul, List.length_nil]; omega
    · have := ih hx
      have : 1 ≤ xs.length := List.length_pos_iff.2 hx
      omega

/-- g_E has E + 1 coefficients (R192). -/
theorem generator_length (e : Nat) : (generator e).length = e + 1 := by
  induction e with
  | zero => rfl
  | succ e ih =>
    have hne : generator e ≠ [] := by intro h; rw [h] at ih; exact absurd ih (by simp)
    have := pmul_length (generator e) [1, gfExp e] hne (by simp)
    simp only [List.length_cons, List.length_nil] at this
    rw [generator]
    omega

theorem generatorCoeffs_length (e : Nat) : (generatorCoeffs e).length = e := by
  rw [generatorCoeffs, List.length_tail, generator_length]
  omega

theorem remainderStep_length (g rem : List Byte) (d : Byte) (h : rem.length = g.length) :
    (remainderStep g rem d).length = g.length := by
  rcases rem with _ | ⟨r0, rest⟩
  · simpa [remainderStep] using h
  · simp only [remainderStep, List.length_zipWith, List.length_append, List.length_cons, List.length_nil] at h ⊢
    omega

/-- The remainder has E bytes (R196). -/
theorem rsRemainder_length (data : List Byte) (e : Nat) : (rsRemainder data e).length = e := by
  have hfold : ∀ (data rem : List Byte), rem.length = e →
      (data.foldl (remainderStep (generatorCoeffs e)) rem).length = e := by
    intro data
    induction data with
    | nil => exact fun rem h => h
    | cons d rest ih =>
      intro rem h
      refine ih _ ?_
      rw [remainderStep_length _ _ _ (by rw [generatorCoeffs_length, h]), generatorCoeffs_length]
  exact hfold data _ List.length_replicate

/-- Interleaving takes min(n, length) codewords of each block (R204). -/
theorem interleaveBlocks_length (n : Nat) (blocks : List (List Byte)) :
    (interleaveBlocks n blocks).length = (blocks.map fun b => min n b.length).sum := by
  have hcol : ∀ i, (column i blocks).length = (blocks.map fun b => if i < b.length then 1 else 0).sum := by
    intro i
    induction blocks with
    | nil => rfl
    | cons b rest ih =>
      rw [column, List.filterMap_cons, List.map_cons, List.sum_cons, ← ih]
      by_cases hi : i < b.length
      · simp only [List.getElem?_eq_getElem hi, hi, if_true, List.length_cons, column]; omega
      · simp only [List.getElem?_eq_none (Nat.le_of_not_lt hi), hi, if_false, column, Nat.zero_add]
  induction n with
  | zero => simp [interleaveBlocks]
  | succ n ih =>
    rw [interleaveBlocks, List.range_succ, List.flatMap_append, List.length_append, ← interleaveBlocks, ih]
    simp only [List.flatMap_cons, List.flatMap_nil, List.append_nil, hcol]
    rw [← List.sum_map_add]
    refine congrArg List.sum (List.map_congr_left fun b _ => ?_)
    split <;> omega

/-- Each block takes its K(b) codewords of DCW (R203). -/
theorem blockData_length (t : BlkEntry) (dcw : List Byte) (b : Nat) (hb : b < t.nblk) (h : dcw.length = t.dcap) :
    (blockData t dcw b).length = blockSize t b := by
  rw [blockData, List.length_take, List.length_drop, h, blockOffset, blockSize, BlkEntry.dcap]
  rw [BlkEntry.nblk] at hb
  split
  case isTrue h1 =>
    have : (b + 1) * t.k1 ≤ t.n1 * t.k1 := Nat.mul_le_mul_right _ h1
    have : (b + 1) * t.k1 = b * t.k1 + t.k1 := by ring
    omega
  case isFalse h1 =>
    have : (b - t.n1 + 1) * t.k2 ≤ t.n2 * t.k2 := Nat.mul_le_mul_right _ (by omega)
    have : (b - t.n1 + 1) * t.k2 = (b - t.n1) * t.k2 + t.k2 := by ring
    omega

theorem blockSizes_sum (t : BlkEntry) : ((List.range t.nblk).map (blockSize t)).sum = t.dcap := by
  have h1 : ((List.range t.n1).map (blockSize t)).sum = t.n1 * t.k1 := by
    rw [List.map_congr_left (g := fun _ => t.k1) fun b hb => by rw [blockSize, if_pos (List.mem_range.1 hb)]]
    simp
  have h2 : ((List.range t.n2).map fun b => blockSize t (t.n1 + b)).sum = t.n2 * t.k2 := by
    rw [List.map_congr_left (g := fun _ => t.k2) fun b _ => by rw [blockSize, if_neg (by omega)]]
    simp
  rw [BlkEntry.nblk, List.range_add, List.map_append, List.sum_append, h1, List.map_map, Function.comp_def, h2,
    BlkEntry.dcap]

/-- The codeword stream has DCAP + NBLK·E codewords (R204). -/
theorem interleave_length {v level : Nat} {t : BlkEntry} (ht : blktab v level = some t) (dcw : List Byte)
    (h : dcw.length = t.dcap) :
    (interleave t (dataBlocks t dcw) ((dataBlocks t dcw).map fun d => rsRemainder d t.e)).length = t.dcap + t.nblk * t.e := by
  have hok := blktab_ok ht
  simp only [blkEntryOk, Bool.and_eq_true, Bool.or_eq_true, decide_eq_true_iff] at hok
  obtain ⟨⟨⟨⟨⟨⟨-, hk⟩, -⟩, -⟩, -⟩, -⟩, -⟩ := hok
  rw [interleave, List.length_append, interleaveBlocks_length, interleaveBlocks_length]
  congr 1
  · rw [← blockSizes_sum, dataBlocks, List.map_map]
    refine congrArg List.sum (List.map_congr_left fun b hb => ?_)
    rw [Function.comp_apply, blockData_length t dcw b (List.mem_range.1 hb) h, blockSize, maxBlockSize]
    have := List.mem_range.1 hb
    rw [BlkEntry.nblk] at this
    split <;> split <;> omega
  · rw [List.map_map, List.map_congr_left (g := fun _ => t.e) fun d _ => by
      rw [Function.comp_apply, rsRemainder_length, Nat.min_self]]
    simp [dataBlocks, Function.comp_def]

end Sys2Proof.Machine
end

