-- ==== Sys2Proof/Laws/Grid.lean ====
section
/-! SUPPORT. Grids: reading after a write, shape, counting modules; and what the list of stamps makes of the empty grid: the
first stamp at a module claims it (R216). -/

namespace Sys2Proof.Machine

/-- An n × n grid. -/
def Square (g : Grid) (n : Nat) : Prop := g.length = n ∧ ∀ row ∈ g, row.length = n

theorem gridAt_eq_some_iff (g : Grid) (r c : Nat) (m : QrModule) :
    gridAt g r c = some m ↔ ∃ row, g[r]? = some row ∧ row[c]? = some m := by
  simp [gridAt, Option.bind_eq_some_iff]

theorem Square.at_isSome {g : Grid} {n r c : Nat} (h : Square g n) (hr : r < n) (hc : c < n) :
    ∃ m, gridAt g r c = some m := by
  have hrl : r < g.length := h.1 ▸ hr
  have hcl : c < g[r].length := by rw [h.2 _ (List.getElem_mem hrl)]; exact hc
  exact ⟨g[r][c], (gridAt_eq_some_iff ..).2 ⟨g[r], List.getElem?_eq_getElem hrl, List.getElem?_eq_getElem hcl⟩⟩

theorem Square.at_bounds {g : Grid} {n r c : Nat} {m : QrModule} (h : Square g n) (hm : gridAt g r c = some m) :
    r < n ∧ c < n := by
  obtain ⟨row, hrow, hcell⟩ := (gridAt_eq_some_iff ..).1 hm
  obtain ⟨hr, rfl⟩ := List.getElem?_eq_some_iff.1 hrow
  obtain ⟨hc, -⟩ := List.getElem?_eq_some_iff.1 hcell
  exact ⟨h.1 ▸ hr, h.2 _ (List.getElem_mem hr) ▸ hc⟩

/-- Reading the module that was written. -/
theorem gridAt_gridSet_same {g : Grid} {r c : Nat} {old : QrModule} (m : QrModule) (h : gridAt g r c = some old) :
    gridAt (gridSet g r c m) r c = some m := by
  obtain ⟨row, hrow, hcell⟩ := (gridAt_eq_some_iff ..).1 h
  obtain ⟨hc, -⟩ := List.getElem?_eq_some_iff.1 hcell
  refine (gridAt_eq_some_iff ..).2 ⟨row.set c m, ?_, ?_⟩
  · simp [gridSet, hrow]
  · exact List.getElem?_set_self hc

/-- Reading any other module. -/
theorem gridAt_gridSet_other (g : Grid) {r c r' c' : Nat} (m : QrModule) (h : (r', c') ≠ (r, c)) :
    gridAt (gridSet g r c m) r' c' = gridAt g r' c' := by
  simp only [gridAt, gridSet, List.getElem?_modify]
  by_cases hr : r = r'
  · subst hr
    have hc : c ≠ c' := fun hc => h (by rw [hc])
    cases g[r]? with
    | none => rfl
    | some row => simp [List.getElem?_set_ne hc]
  · simp [hr]

theorem Square.gridSet {g : Grid} {n : Nat} (h : Square g n) (r c : Nat) (m : QrModule) : Square (gridSet g r c m) n := by
  refine ⟨by rw [Machine.gridSet, List.length_modify]; exact h.1, ?_⟩
  intro row hrow
  obtain ⟨i, hi, rfl⟩ := List.getElem_of_mem hrow
  rw [Machine.gridSet, List.length_modify] at hi
  simp only [Machine.gridSet, List.getElem_modify]
  split
  · rw [List.length_set]; exact h.2 _ (List.getElem_mem hi)
  · exact h.2 _ (List.getElem_mem hi)

/-- How many modules of a grid have a property. -/
def countGrid (p : QrModule → Bool) (g : Grid) : Nat := (g.map fun row => row.countP p).sum

theorem dataCount_eq (g : Grid) : dataCount g = countGrid (fun m => m.prov = .data) g := rfl

/-- Writing one module changes a count by that module alone. -/
theorem countGrid_gridSet (p : QrModule → Bool) {g : Grid} {r c : Nat} {old : QrModule} (m : QrModule)
    (h : gridAt g r c = some old) :
    countGrid p (gridSet g r c m) + (if p old then 1 else 0) = countGrid p g + (if p m then 1 else 0) := by
  induction g generalizing r with
  | nil => simp [gridAt] at h
  | cons row rest ih =>
    cases r with
    | zero =>
      obtain ⟨row', hrow, hcell⟩ := (gridAt_eq_some_iff ..).1 h
      have hrow : row = row' := by simpa using hrow
      subst hrow
      obtain ⟨hc, hold⟩ := List.getElem?_eq_some_iff.1 hcell
      subst hold
      have hset := List.countP_set (p := p) (a := m) hc
      have hpos : p row[c] = true → 1 ≤ row.countP p := fun hp =>
        List.countP_pos_iff.2 ⟨row[c], List.getElem_mem hc, hp⟩
      simp only [gridSet, List.modify_zero_cons, countGrid, List.map_cons, List.sum_cons, hset]
      by_cases hp : p row[c] = true
      · have := hpos hp
        simp only [hp, if_true]
        omega
      · simp only [hp, Bool.false_eq_true, if_false]
        omega
    | succ r =>
      have := ih (r := r) (by simpa [gridAt] using h)
      simp only [gridSet, List.modify_succ_cons, countGrid, List.map_cons, List.sum_cons] at this ⊢
      omega

/-- Whether a stamp is at (r, c). -/
def Stamp.isAt (r c : Nat) (st : Stamp) : Bool := decide (st.row = r ∧ st.col = c)

/-- What the stamps make of a module m at (r, c): it stays if it is claimed; else the first stamp there claims it (R216). -/
def stamped (r c : Nat) (stamps : List Stamp) (m : QrModule) : QrModule :=
  if m.prov ≠ .reservedUnused then m
  else match stamps.find? (Stamp.isAt r c) with
    | some st => ⟨st.dark, st.prov⟩
    | none => m

theorem Square.applyStamp {g : Grid} {n : Nat} (h : Square g n) (st : Stamp) : Square (applyStamp n g st) n := by
  unfold Machine.applyStamp
  split
  · exact h
  · split
    · split
      · exact h
      · exact h.gridSet ..
    · exact h

theorem Square.foldStamps {g : Grid} {n : Nat} (h : Square g n) (stamps : List Stamp) :
    Square (stamps.foldl (Machine.applyStamp n) g) n := by
  induction stamps generalizing g with
  | nil => exact h
  | cons st rest ih => exact ih (h.applyStamp st)

theorem gridAt_applyStamp {g : Grid} {n r c : Nat} {m : QrModule} (st : Stamp) (h : Square g n) (hm : gridAt g r c = some m) :
    gridAt (applyStamp n g st) r c = some (stamped r c [st] m) := by
  obtain ⟨hr, hc⟩ := h.at_bounds hm
  by_cases hat : st.row = r ∧ st.col = c
  · have hin : ¬(st.row < 0 ∨ (n : Int) ≤ st.row ∨ st.col < 0 ∨ (n : Int) ≤ st.col) := by omega
    have htr : st.row.toNat = r := by omega
    have htc : st.col.toNat = c := by omega
    rw [applyStamp, if_neg hin, htr, htc, hm]
    dsimp only
    by_cases hp : m.prov = .reservedUnused
    · rw [if_neg (by simp [hp]), gridAt_gridSet_same _ hm]
      simp [stamped, hp, Stamp.isAt, hat]
    · rw [if_pos (by simp [hp]), hm, stamped, if_pos (by simp [hp])]
  · have hno : stamped r c [st] m = m := by
      have : Stamp.isAt r c st = false := by simp [Stamp.isAt, hat]
      simp [stamped, this]
    rw [hno, ← hm, applyStamp]
    split
    · rfl
    · split
      · split
        · rfl
        · refine gridAt_gridSet_other g _ ?_
          intro heq
          have h1 := congrArg Prod.fst heq
          have h2 := congrArg Prod.snd heq
          dsimp only at h1 h2
          omega
      · rfl

/-- Every module of the grid after all stamps: the first stamp at it (R216, R227). No stamp may leave a module unclaimed. -/
theorem gridAt_foldStamps {g : Grid} {n r c : Nat} {m : QrModule} (stamps : List Stamp) (h : Square g n)
    (hm : gridAt g r c = some m) (hprov : ∀ st ∈ stamps, st.prov ≠ .reservedUnused) :
    gridAt (stamps.foldl (applyStamp n) g) r c = some (stamped r c stamps m) := by
  induction stamps generalizing g m with
  | nil => simp [stamped, hm]
  | cons st rest ih =>
    rw [List.foldl_cons, ih (h.applyStamp st) (gridAt_applyStamp st h hm) fun x hx => hprov x (List.mem_cons_of_mem _ hx)]
    have hst := hprov st (List.mem_cons_self ..)
    by_cases hp : m.prov = .reservedUnused
    · by_cases hat : Stamp.isAt r c st = true
      · simp [stamped, hp, hat, hst]
      · simp [stamped, hp, hat]
    · simp [stamped, hp]

theorem square_emptyGrid (n : Nat) : Square (emptyGrid n) n := by
  refine ⟨List.length_replicate, fun row hrow => ?_⟩
  rw [List.eq_of_mem_replicate hrow, List.length_replicate]

theorem gridAt_emptyGrid {n r c : Nat} (hr : r < n) (hc : c < n) :
    gridAt (emptyGrid n) r c = some ⟨false, .reservedUnused⟩ := by
  simp [gridAt, emptyGrid, hr, hc]

/-- Every stamp of MBUILD is Function or Format (R217 to R225). -/
theorem allStamps_prov (v n : Nat) : ∀ st ∈ allStamps v n, st.prov = .function ∨ st.prov = .format := by
  intro st hst
  have squareProv : ∀ (k : Nat) (ctr : Int × Int) (f : Int → Int → Nat → List Stamp),
      (∀ r c d, ∀ x ∈ f r c d, x.prov = .function) → ∀ x ∈ squareStamps k ctr f, x.prov = .function := by
    intro k ctr f hf x hx
    simp only [squareStamps, List.mem_flatMap] at hx
    obtain ⟨dr, -, dc, -, hx⟩ := hx
    exact hf _ _ _ x hx
  simp only [allStamps, List.mem_append, List.mem_flatMap, List.mem_map, List.mem_singleton] at hst
  rcases hst with ((((⟨ctr, -, hst | hst⟩ | hst) | ⟨ctr, -, hst⟩) | hst) | ⟨p, -, rfl⟩) | ⟨p, -, rfl⟩
  · refine .inl (squareProv 3 ctr _ ?_ st hst)
    rintro r c d x hx
    rw [List.mem_singleton.1 hx]
  · refine .inl (squareProv 4 ctr _ ?_ st hst)
    rintro r c d x hx
    split at hx
    · rw [List.mem_singleton.1 hx]
    · exact absurd hx (List.not_mem_nil)
  · simp only [timingStamps, List.mem_flatMap] at hst
    obtain ⟨i, -, hst⟩ := hst
    simp only [List.mem_cons, List.not_mem_nil, or_false] at hst
    rcases hst with rfl | rfl <;> exact .inl rfl
  · refine .inl (squareProv 2 ctr _ ?_ st hst)
    rintro r c d x hx
    rw [List.mem_singleton.1 hx]
  · rw [hst]; exact .inl rfl
  · exact .inr rfl
  · exact .inr rfl

theorem Square.map {g : Grid} {n : Nat} (h : Square g n) (f : QrModule → QrModule) : Square (g.map (·.map f)) n := by
  refine ⟨by rw [List.length_map]; exact h.1, fun row hrow => ?_⟩
  obtain ⟨row', hrow', rfl⟩ := List.mem_map.1 hrow
  rw [List.length_map]
  exact h.2 _ hrow'

theorem gridAt_map (g : Grid) (f : QrModule → QrModule) (r c : Nat) :
    gridAt (g.map (·.map f)) r c = (gridAt g r c).map f := by
  simp only [gridAt, List.getElem?_map]
  cases g[r]? with
  | none => rfl
  | some row => simp [List.getElem?_map]

/-- The built grid is n × n (R215). -/
theorem square_builtGrid (v n : Nat) : Square (builtGrid v n) n :=
  ((square_emptyGrid n).foldStamps _).map _

/-- Each module of the built grid: the first stamp at it, Data where there is none (R216, R226). -/
theorem gridAt_builtGrid (v : Nat) {n r c : Nat} (hr : r < n) (hc : c < n) :
    gridAt (builtGrid v n) r c = some (match (allStamps v n).find? (Stamp.isAt r c) with
      | some st => ⟨st.dark, st.prov⟩
      | none => ⟨false, .data⟩) := by
  have hprov : ∀ st ∈ allStamps v n, st.prov ≠ .reservedUnused := by
    intro st hst
    rcases allStamps_prov v n st hst with h | h <;> rw [h] <;> decide
  rw [builtGrid, gridAt_map, gridAt_foldStamps _ (square_emptyGrid n) (gridAt_emptyGrid hr hc) hprov]
  simp only [Option.map_some, stamped, ne_eq, not_true_eq_false, if_false]
  rcases hf : (allStamps v n).find? (Stamp.isAt r c) with _ | st
  · rfl
  · have := hprov st (List.mem_of_find?_eq_some hf)
    simp [claimData, this]

/-- `k` of a number, which is looked at first: a loop that the kernel runs then carries the number, not a growing sum. -/
def forced {α : Type} (count : Nat) (k : Nat → α) : α :=
  match count with
  | 0 => k 0
  | c + 1 => k (c + 1)

theorem forced_eq {α : Type} (count : Nat) (k : Nat → α) : forced count k = k count := by cases count <;> rfl

/-- The number r·n + c of the module a stamp is at; none outside the n × n matrix. -/
def Stamp.index (n : Nat) (st : Stamp) : Option Nat :=
  match st.row, st.col with
  | .ofNat r, .ofNat c => if Nat.blt r n && Nat.blt c n then some (r * n + c) else none
  | _, _ => none

theorem Stamp.index_cases (n : Nat) (st : Stamp) :
    ((st.row < 0 ∨ (n : Int) ≤ st.row ∨ st.col < 0 ∨ (n : Int) ≤ st.col) ∧ st.index n = none) ∨
    (¬(st.row < 0 ∨ (n : Int) ≤ st.row ∨ st.col < 0 ∨ (n : Int) ≤ st.col) ∧
      st.index n = some (st.row.toNat * n + st.col.toNat)) := by
  obtain ⟨row, col, dark, prov⟩ := st
  unfold Stamp.index
  rcases row with r | r <;> rcases col with c | c <;> simp only [Int.ofNat_eq_natCast]
  · by_cases hr : r < n <;> by_cases hc : c < n <;> simp [hr, hc] <;> omega
  all_goals exact .inl ⟨by omega, trivial⟩

/-- How many modules of an n × n matrix a list of stamps claims, counted without a grid: the bits r·n + c of `claimed` are the
modules claimed so far, and `count` is their number. -/
def claimLoop (n : Nat) : List Stamp → (claimed count : Nat) → Nat
  | [], _, count => count
  | st :: rest, claimed, count => forced count fun count =>
    match st.index n with
    | none => claimLoop n rest claimed count
    | some i =>
      if claimed.testBit i then claimLoop n rest claimed count
      else claimLoop n rest (claimed ||| 2 ^ i) (count + 1)

/-- The number of modules a list of stamps claims. -/
def claimCount (n : Nat) (stamps : List Stamp) : Nat := claimLoop n stamps 0 0

theorem index_inj {n r c r' c' : Nat} (hc : c < n) (hc' : c' < n) : r * n + c = r' * n + c' ↔ r = r' ∧ c = c' := by
  constructor
  · intro h
    have h1 : (r * n + c) / n = (r' * n + c') / n := by rw [h]
    have hn : 0 < n := by omega
    rw [Nat.mul_comm r, Nat.mul_comm r', Nat.mul_add_div hn, Nat.mul_add_div hn, Nat.div_eq_of_lt hc,
      Nat.div_eq_of_lt hc'] at h1
    have : r = r' := by omega
    subst this
    exact ⟨rfl, by omega⟩
  · rintro ⟨rfl, rfl⟩; rfl

/-- `claimLoop` follows `applyStamp`: its bits are the claimed modules, and each new claim leaves one unclaimed module fewer. -/
theorem claimLoop_eq {g : Grid} {n claimed count : Nat} (stamps : List Stamp) (h : Square g n)
    (hst : ∀ st ∈ stamps, st.prov ≠ .reservedUnused)
    (hbits : ∀ r c m, gridAt g r c = some m → claimed.testBit (r * n + c) = decide (m.prov ≠ .reservedUnused))
    (hcount : countGrid (fun m => m.prov = .reservedUnused) g + count = n * n) :
    countGrid (fun m => m.prov = .reservedUnused) (stamps.foldl (applyStamp n) g) + claimLoop n stamps claimed count
      = n * n := by
  induction stamps generalizing g claimed count with
  | nil => exact hcount
  | cons st rest ih =>
    have hst0 := hst st (List.mem_cons_self ..)
    have hrest := fun x hx => hst x (List.mem_cons_of_mem _ hx)
    rw [List.foldl_cons, claimLoop, forced_eq]
    rcases st.index_cases n with ⟨hin, hi⟩ | ⟨hin, hi⟩ <;> rw [hi]
    · rw [applyStamp, if_pos hin]
      exact ih h hrest hbits hcount
    · have hr : st.row.toNat < n := by omega
      have hc : st.col.toNat < n := by omega
      obtain ⟨m, hm⟩ := h.at_isSome hr hc
      dsimp only
      rw [applyStamp, if_neg hin, hm, hbits _ _ _ hm]
      by_cases hp : m.prov = .reservedUnused
      · simp only [hp, ne_eq, not_true_eq_false, decide_false, Bool.false_eq_true, if_false]
        refine ih (h.gridSet ..) hrest ?_ ?_
        · intro r c x hx
          obtain ⟨-, hc'⟩ := (h.gridSet ..).at_bounds hx
          rw [Nat.testBit_or, Nat.testBit_two_pow]
          by_cases heq : (r, c) = (st.row.toNat, st.col.toNat)
          · obtain ⟨rfl, rfl⟩ := Prod.mk.inj heq
            rw [gridAt_gridSet_same _ hm] at hx
            cases hx
            simp [hst0]
          · have hne : ¬(st.row.toNat * n + st.col.toNat = r * n + c) := by
              rw [index_inj hc hc']
              rintro ⟨rfl, rfl⟩
              exact heq rfl
            rw [gridAt_gridSet_other g _ heq] at hx
            rw [hbits r c x hx]
            simp [hne]
        · have := countGrid_gridSet (fun m => m.prov = .reservedUnused) ⟨st.dark, st.prov⟩ hm
          simp only [hp, hst0, decide_true, decide_false, if_true, Bool.false_eq_true, if_false] at this
          omega
      · simp only [hp, ne_eq, not_false_eq_true, decide_true, if_true]
        exact ih h hrest hbits hcount

theorem mem_applyStamp_prov {g : Grid} {n : Nat} {st : Stamp} (P : Provenance → Prop) (hst : P st.prov)
    (hg : ∀ row ∈ g, ∀ m ∈ row, P m.prov) : ∀ row ∈ applyStamp n g st, ∀ m ∈ row, P m.prov := by
  unfold applyStamp
  split
  · exact hg
  · split
    · split
      · exact hg
      · intro row hrow m hm
        obtain ⟨i, hi, rfl⟩ := List.getElem_of_mem hrow
        rw [gridSet, List.length_modify] at hi
        simp only [gridSet, List.getElem_modify] at hm
        split at hm
        · rcases List.mem_or_eq_of_mem_set hm with hm | rfl
          · exact hg _ (List.getElem_mem hi) m hm
          · exact hst
        · exact hg _ (List.getElem_mem hi) m hm
    · exact hg

theorem mem_foldStamps_prov {g : Grid} {n : Nat} (P : Provenance → Prop) (stamps : List Stamp)
    (hst : ∀ st ∈ stamps, P st.prov) (hg : ∀ row ∈ g, ∀ m ∈ row, P m.prov) :
    ∀ row ∈ stamps.foldl (applyStamp n) g, ∀ m ∈ row, P m.prov := by
  induction stamps generalizing g with
  | nil => exact hg
  | cons st rest ih =>
    exact ih (fun x hx => hst x (List.mem_cons_of_mem _ hx))
      (mem_applyStamp_prov P (hst st (List.mem_cons_self ..)) hg)

/-- The Data modules are those no stamp claims, so there are n² less the claimed ones (R226, R229). -/
theorem dataCount_builtGrid (v n : Nat) : dataCount (builtGrid v n) + claimCount n (allStamps v n) = n * n := by
  have hprov : ∀ st ∈ allStamps v n, st.prov ≠ .reservedUnused := by
    intro st hst
    rcases allStamps_prov v n st hst with h | h <;> rw [h] <;> decide
  have hnodata : ∀ row ∈ (allStamps v n).foldl (applyStamp n) (emptyGrid n), ∀ m ∈ row, m.prov ≠ .data := by
    refine mem_foldStamps_prov (· ≠ .data) _ ?_ ?_
    · intro st hst
      rcases allStamps_prov v n st hst with h | h <;> rw [h] <;> decide
    · intro row hrow m hm
      rw [List.eq_of_mem_replicate hrow] at hm
      rw [List.eq_of_mem_replicate hm]
      decide
  have hempty : countGrid (fun m => m.prov = .reservedUnused) (emptyGrid n) = n * n := by
    simp [countGrid, emptyGrid, List.map_replicate, List.countP_replicate, List.sum_replicate]
  have hdata : dataCount (builtGrid v n) =
      countGrid (fun m => m.prov = .reservedUnused) ((allStamps v n).foldl (applyStamp n) (emptyGrid n)) := by
    rw [dataCount, builtGrid, countGrid, List.map_map]
    refine congrArg List.sum (List.map_congr_left fun row hrow => ?_)
    rw [Function.comp_apply, List.countP_map]
    refine List.countP_congr fun m hm => ?_
    have := hnodata row hrow m hm
    by_cases hp : m.prov = .reservedUnused
    · simp [claimData, hp]
    · simp [claimData, hp, this]
  rw [hdata, claimCount]
  refine claimLoop_eq _ (square_emptyGrid n) hprov ?_ hempty
  intro r c m hm
  obtain ⟨hr, hc⟩ := (square_emptyGrid n).at_bounds hm
  rw [gridAt_emptyGrid hr hc] at hm
  cases hm
  simp

end Sys2Proof.Machine
end

