-- ==== Sys2Proof/Laws/Memory.lean ====
section
/-! SUPPORT. The laws of the cell memory: reading after a write, and the canonical form kept by every operation. -/

namespace Sys2Proof.Machine

theorem Memory.load_store_same (m : Memory) (a : Nat) (v : Byte) : Memory.load (Memory.store m a v) a = some v := by
  induction m with
  | nil => simp [Memory.store, Memory.load]
  | cons x rest ih =>
    obtain ⟨b, w⟩ := x
    by_cases hlt : a < b
    · simp [Memory.store, Memory.load, hlt]
    · by_cases he : a = b
      · simp [Memory.store, Memory.load, he]
      · simp [Memory.store, Memory.load, hlt, he, ih]

theorem Memory.load_store_other (m : Memory) {a b : Nat} (v : Byte) (h : b ≠ a) :
    Memory.load (Memory.store m a v) b = Memory.load m b := by
  induction m with
  | nil => simp [Memory.store, Memory.load, h]
  | cons x rest ih =>
    obtain ⟨c, w⟩ := x
    by_cases hlt : a < c
    · simp [Memory.store, Memory.load, hlt, h]
    · by_cases he : a = c
      · subst he
        simp [Memory.store, Memory.load, h]
      · simp [Memory.store, Memory.load, hlt, he, ih]

/-- Every listed address is greater than a bound. -/
def Memory.above (a : Nat) (m : Memory) : Prop := ∀ c ∈ m, a < c.1

theorem Memory.wf_cons_iff (a : Nat) (v : Byte) (m : Memory) :
    Memory.wf ((a, v) :: m) = true ↔ Memory.above a m ∧ Memory.wf m = true := by
  induction m generalizing a v with
  | nil => simp [Memory.wf, Memory.above]
  | cons x rest ih =>
    obtain ⟨b, w⟩ := x
    rw [Memory.wf, Bool.and_eq_true, decide_eq_true_iff]
    constructor
    · rintro ⟨hab, hw⟩
      refine ⟨?_, hw⟩
      intro c hc
      rcases List.mem_cons.1 hc with rfl | hc
      · exact hab
      · exact Nat.lt_trans hab (((ih b w).1 hw).1 c hc)
    · rintro ⟨hall, hw⟩
      exact ⟨hall _ (List.mem_cons_self ..), hw⟩

theorem Memory.above_store {b : Nat} (m : Memory) (a : Nat) (v : Byte) (hm : Memory.above b m) (ha : b < a) :
    Memory.above b (Memory.store m a v) := by
  induction m with
  | nil =>
    intro c hc
    simp only [Memory.store, List.mem_singleton] at hc
    rwa [hc]
  | cons x rest ih =>
    obtain ⟨d, w⟩ := x
    have hd : b < d := hm _ (List.mem_cons_self ..)
    have hrest : Memory.above b rest := fun c hc => hm c (List.mem_cons_of_mem _ hc)
    simp only [Memory.store]
    split
    · intro c hc
      rcases List.mem_cons.1 hc with rfl | hc
      · exact ha
      · exact hm c hc
    · split
      · intro c hc
        rcases List.mem_cons.1 hc with rfl | hc
        · exact ha
        · exact hrest c hc
      · intro c hc
        rcases List.mem_cons.1 hc with rfl | hc
        · exact hd
        · exact ih hrest c hc

/-- A store keeps the canonical form. -/
theorem Memory.wf_store (m : Memory) (a : Nat) (v : Byte) (h : Memory.wf m = true) :
    Memory.wf (Memory.store m a v) = true := by
  induction m with
  | nil => rfl
  | cons x rest ih =>
    obtain ⟨b, w⟩ := x
    have hb := (Memory.wf_cons_iff b w rest).1 h
    simp only [Memory.store]
    split
    case isTrue hlt =>
      refine (Memory.wf_cons_iff ..).2 ⟨?_, h⟩
      intro c hc
      rcases List.mem_cons.1 hc with rfl | hc
      · exact hlt
      · exact Nat.lt_trans hlt (hb.1 c hc)
    case isFalse hlt =>
      split
      case isTrue he => exact (Memory.wf_cons_iff ..).2 ⟨he ▸ hb.1, hb.2⟩
      case isFalse he =>
        exact (Memory.wf_cons_iff ..).2 ⟨Memory.above_store rest a v hb.1 (by omega), ih hb.2⟩

/-- Storing several bytes keeps the canonical form. -/
theorem Memory.wf_storeBytes (bytes : List Byte) (m : Memory) (a : Nat) (h : Memory.wf m = true) :
    Memory.wf (storeBytes m a bytes) = true := by
  induction bytes generalizing m a with
  | nil => exact h
  | cons b rest ih => exact ih _ _ (Memory.wf_store m a b h)

/-- A byte outside the stored range reads as before. -/
theorem load_storeBytes_outside (bytes : List Byte) (m : Memory) (a b : Nat) (h : b < a ∨ a + bytes.length ≤ b) :
    Memory.load (storeBytes m a bytes) b = Memory.load m b := by
  induction bytes generalizing m a with
  | nil => rfl
  | cons x rest ih =>
    rw [List.length_cons] at h
    rw [storeBytes, ih _ _ (by omega)]
    exact Memory.load_store_other m x (by omega)

/-- A byte inside the stored range reads as the byte stored there. -/
theorem load_storeBytes_inside (bytes : List Byte) (m : Memory) (a k : Nat) (h : k < bytes.length) :
    Memory.load (storeBytes m a bytes) (a + k) = bytes[k]? := by
  induction bytes generalizing m a k with
  | nil => exact absurd h (Nat.not_lt_zero k)
  | cons x rest ih =>
    cases k with
    | zero => rw [storeBytes, load_storeBytes_outside rest _ _ _ (by omega)]; exact Memory.load_store_same m a x
    | succ k =>
      have := ih (Memory.store m a x) (a + 1) k (by simpa using h)
      rw [storeBytes, List.getElem?_cons_succ, ← this]
      congr 1
      omega

/-- The reset memory has the canonical form. -/
theorem reset_memory_wf : Memory.wf State.reset.mem = true := rfl

end Sys2Proof.Machine
end

