-- ==== Sys2Proof/Laws/ModuleCount.lean ====
section
/-! SUPPORT. How many modules the stamps of MBUILD claim at each version: the kernel counts them, stamp by stamp. With
`dataCount_builtGrid` this gives the number of Data modules of the built grid. -/

namespace Sys2Proof.Machine

/-- The versions 1..20 leave RAWMOD(v) modules unclaimed (R133, R229), by counting. -/
theorem claimCount_rawmod_low : ∀ v ∈ List.range' 1 20,
    (rawmod v).map (· + claimCount (sideOf v) (allStamps v (sideOf v))) = some (sideOf v * sideOf v) := by
  decide +kernel

/-- The versions 21..40 leave RAWMOD(v) modules unclaimed (R133, R229), by counting. -/
theorem claimCount_rawmod_high : ∀ v ∈ List.range' 21 20,
    (rawmod v).map (· + claimCount (sideOf v) (allStamps v (sideOf v))) = some (sideOf v * sideOf v) := by
  decide +kernel

end Sys2Proof.Machine
end

