-- ==== Sys2Proof/Laws/State.lean ====
section
/-! SUPPORT. One lemma per field for each shared update of the state: what the field is after it. -/

namespace Sys2Proof.Machine

/-! ### invalidate (R48) -/

@[simp] theorem invalidate_stage (s : State) : (invalidate s).stage = .idle := rfl
@[simp] theorem invalidate_errcode (s : State) : (invalidate s).errcode = s.errcode := rfl
@[simp] theorem invalidate_errinfo (s : State) : (invalidate s).errinfo = s.errinfo := rfl
@[simp] theorem invalidate_level (s : State) : (invalidate s).level = s.level := rfl
@[simp] theorem invalidate_fver (s : State) : (invalidate s).fver = s.fver := rfl
@[simp] theorem invalidate_tlen (s : State) : (invalidate s).tlen = s.tlen := rfl
@[simp] theorem invalidate_ver (s : State) : (invalidate s).ver = 0 := rfl
@[simp] theorem invalidate_side (s : State) : (invalidate s).side = 0 := rfl
@[simp] theorem invalidate_mask (s : State) : (invalidate s).mask = 0 := rfl
@[simp] theorem invalidate_nseg (s : State) : (invalidate s).nseg = 0 := rfl
@[simp] theorem invalidate_bitlen (s : State) : (invalidate s).bitlen = 0 := rfl
@[simp] theorem invalidate_dlen (s : State) : (invalidate s).dlen = 0 := rfl
@[simp] theorem invalidate_clen (s : State) : (invalidate s).clen = 0 := rfl
@[simp] theorem invalidate_nblk (s : State) : (invalidate s).nblk = 0 := rfl
@[simp] theorem invalidate_scores (s : State) : (invalidate s).scores = #v[0, 0, 0, 0, 0, 0, 0, 0] := rfl
@[simp] theorem invalidate_gfres (s : State) : (invalidate s).gfres = s.gfres := rfl
@[simp] theorem invalidate_rsout (s : State) : (invalidate s).rsout = s.rsout := rfl
@[simp] theorem invalidate_mem (s : State) : (invalidate s).mem = s.mem := rfl
@[simp] theorem invalidate_segt (s : State) : (invalidate s).segt = s.segt := rfl
@[simp] theorem invalidate_dcw (s : State) : (invalidate s).dcw = s.dcw := rfl
@[simp] theorem invalidate_eccb (s : State) : (invalidate s).eccb = s.eccb := rfl
@[simp] theorem invalidate_cw (s : State) : (invalidate s).cw = s.cw := rfl
@[simp] theorem invalidate_modules (s : State) : (invalidate s).modules = s.modules := rfl
@[simp] theorem invalidate_pending (s : State) : (invalidate s).pending = s.pending := rfl
@[simp] theorem invalidate_response (s : State) : (invalidate s).response = s.response := rfl
@[simp] theorem invalidate_draws (s : State) : (invalidate s).draws = s.draws := rfl
@[simp] theorem invalidate_resets (s : State) : (invalidate s).resets = s.resets := rfl

/-! ### raise (R310) -/

@[simp] theorem raise_stage (e : ErrCode) (op : Byte) (s : State) : (raise e op s).stage = .idle := rfl
@[simp] theorem raise_errcode (e : ErrCode) (op : Byte) (s : State) : (raise e op s).errcode = e := rfl
@[simp] theorem raise_errinfo (e : ErrCode) (op : Byte) (s : State) : (raise e op s).errinfo = ⟨op, s.stage⟩ := rfl
@[simp] theorem raise_level (e : ErrCode) (op : Byte) (s : State) : (raise e op s).level = s.level := rfl
@[simp] theorem raise_fver (e : ErrCode) (op : Byte) (s : State) : (raise e op s).fver = s.fver := rfl
@[simp] theorem raise_tlen (e : ErrCode) (op : Byte) (s : State) : (raise e op s).tlen = s.tlen := rfl
@[simp] theorem raise_ver (e : ErrCode) (op : Byte) (s : State) : (raise e op s).ver = 0 := rfl
@[simp] theorem raise_side (e : ErrCode) (op : Byte) (s : State) : (raise e op s).side = 0 := rfl
@[simp] theorem raise_mask (e : ErrCode) (op : Byte) (s : State) : (raise e op s).mask = 0 := rfl
@[simp] theorem raise_nseg (e : ErrCode) (op : Byte) (s : State) : (raise e op s).nseg = 0 := rfl
@[simp] theorem raise_bitlen (e : ErrCode) (op : Byte) (s : State) : (raise e op s).bitlen = 0 := rfl
@[simp] theorem raise_dlen (e : ErrCode) (op : Byte) (s : State) : (raise e op s).dlen = 0 := rfl
@[simp] theorem raise_clen (e : ErrCode) (op : Byte) (s : State) : (raise e op s).clen = 0 := rfl
@[simp] theorem raise_nblk (e : ErrCode) (op : Byte) (s : State) : (raise e op s).nblk = 0 := rfl
@[simp] theorem raise_scores (e : ErrCode) (op : Byte) (s : State) : (raise e op s).scores = #v[0, 0, 0, 0, 0, 0, 0, 0] := rfl
@[simp] theorem raise_gfres (e : ErrCode) (op : Byte) (s : State) : (raise e op s).gfres = s.gfres := rfl
@[simp] theorem raise_rsout (e : ErrCode) (op : Byte) (s : State) : (raise e op s).rsout = s.rsout := rfl
@[simp] theorem raise_mem (e : ErrCode) (op : Byte) (s : State) : (raise e op s).mem = s.mem := rfl
@[simp] theorem raise_segt (e : ErrCode) (op : Byte) (s : State) : (raise e op s).segt = s.segt := rfl
@[simp] theorem raise_dcw (e : ErrCode) (op : Byte) (s : State) : (raise e op s).dcw = s.dcw := rfl
@[simp] theorem raise_eccb (e : ErrCode) (op : Byte) (s : State) : (raise e op s).eccb = s.eccb := rfl
@[simp] theorem raise_cw (e : ErrCode) (op : Byte) (s : State) : (raise e op s).cw = s.cw := rfl
@[simp] theorem raise_modules (e : ErrCode) (op : Byte) (s : State) : (raise e op s).modules = s.modules := rfl
@[simp] theorem raise_pending (e : ErrCode) (op : Byte) (s : State) : (raise e op s).pending = s.pending := rfl
@[simp] theorem raise_response (e : ErrCode) (op : Byte) (s : State) : (raise e op s).response = s.response := rfl
@[simp] theorem raise_draws (e : ErrCode) (op : Byte) (s : State) : (raise e op s).draws = s.draws := rfl
@[simp] theorem raise_resets (e : ErrCode) (op : Byte) (s : State) : (raise e op s).resets = s.resets := rfl

/-! ### acknowledge (R314) -/

@[simp] theorem acknowledge_stage (s : State) : (acknowledge s).stage = .idle := rfl
@[simp] theorem acknowledge_errcode (s : State) : (acknowledge s).errcode = .noError := rfl
@[simp] theorem acknowledge_errinfo (s : State) : (acknowledge s).errinfo = ⟨0, .idle⟩ := rfl
@[simp] theorem acknowledge_level (s : State) : (acknowledge s).level = s.level := rfl
@[simp] theorem acknowledge_fver (s : State) : (acknowledge s).fver = s.fver := rfl
@[simp] theorem acknowledge_tlen (s : State) : (acknowledge s).tlen = s.tlen := rfl
@[simp] theorem acknowledge_ver (s : State) : (acknowledge s).ver = 0 := rfl
@[simp] theorem acknowledge_side (s : State) : (acknowledge s).side = 0 := rfl
@[simp] theorem acknowledge_mask (s : State) : (acknowledge s).mask = 0 := rfl
@[simp] theorem acknowledge_nseg (s : State) : (acknowledge s).nseg = 0 := rfl
@[simp] theorem acknowledge_bitlen (s : State) : (acknowledge s).bitlen = 0 := rfl
@[simp] theorem acknowledge_dlen (s : State) : (acknowledge s).dlen = 0 := rfl
@[simp] theorem acknowledge_clen (s : State) : (acknowledge s).clen = 0 := rfl
@[simp] theorem acknowledge_nblk (s : State) : (acknowledge s).nblk = 0 := rfl
@[simp] theorem acknowledge_scores (s : State) : (acknowledge s).scores = #v[0, 0, 0, 0, 0, 0, 0, 0] := rfl
@[simp] theorem acknowledge_gfres (s : State) : (acknowledge s).gfres = s.gfres := rfl
@[simp] theorem acknowledge_rsout (s : State) : (acknowledge s).rsout = s.rsout := rfl
@[simp] theorem acknowledge_mem (s : State) : (acknowledge s).mem = s.mem := rfl
@[simp] theorem acknowledge_segt (s : State) : (acknowledge s).segt = s.segt := rfl
@[simp] theorem acknowledge_dcw (s : State) : (acknowledge s).dcw = s.dcw := rfl
@[simp] theorem acknowledge_eccb (s : State) : (acknowledge s).eccb = s.eccb := rfl
@[simp] theorem acknowledge_cw (s : State) : (acknowledge s).cw = s.cw := rfl
@[simp] theorem acknowledge_modules (s : State) : (acknowledge s).modules = s.modules := rfl
@[simp] theorem acknowledge_pending (s : State) : (acknowledge s).pending = s.pending := rfl
@[simp] theorem acknowledge_response (s : State) : (acknowledge s).response = s.response := rfl
@[simp] theorem acknowledge_draws (s : State) : (acknowledge s).draws = s.draws := rfl
@[simp] theorem acknowledge_resets (s : State) : (acknowledge s).resets = s.resets := rfl

/-! ### hardReset (R330) -/

@[simp] theorem hardReset_stage (s : State) : (hardReset s).stage = State.reset.stage := rfl
@[simp] theorem hardReset_errcode (s : State) : (hardReset s).errcode = State.reset.errcode := rfl
@[simp] theorem hardReset_errinfo (s : State) : (hardReset s).errinfo = State.reset.errinfo := rfl
@[simp] theorem hardReset_level (s : State) : (hardReset s).level = State.reset.level := rfl
@[simp] theorem hardReset_fver (s : State) : (hardReset s).fver = State.reset.fver := rfl
@[simp] theorem hardReset_tlen (s : State) : (hardReset s).tlen = State.reset.tlen := rfl
@[simp] theorem hardReset_ver (s : State) : (hardReset s).ver = State.reset.ver := rfl
@[simp] theorem hardReset_side (s : State) : (hardReset s).side = State.reset.side := rfl
@[simp] theorem hardReset_mask (s : State) : (hardReset s).mask = State.reset.mask := rfl
@[simp] theorem hardReset_nseg (s : State) : (hardReset s).nseg = State.reset.nseg := rfl
@[simp] theorem hardReset_bitlen (s : State) : (hardReset s).bitlen = State.reset.bitlen := rfl
@[simp] theorem hardReset_dlen (s : State) : (hardReset s).dlen = State.reset.dlen := rfl
@[simp] theorem hardReset_clen (s : State) : (hardReset s).clen = State.reset.clen := rfl
@[simp] theorem hardReset_nblk (s : State) : (hardReset s).nblk = State.reset.nblk := rfl
@[simp] theorem hardReset_scores (s : State) : (hardReset s).scores = State.reset.scores := rfl
@[simp] theorem hardReset_gfres (s : State) : (hardReset s).gfres = State.reset.gfres := rfl
@[simp] theorem hardReset_rsout (s : State) : (hardReset s).rsout = State.reset.rsout := rfl
@[simp] theorem hardReset_mem (s : State) : (hardReset s).mem = State.reset.mem := rfl
@[simp] theorem hardReset_segt (s : State) : (hardReset s).segt = State.reset.segt := rfl
@[simp] theorem hardReset_dcw (s : State) : (hardReset s).dcw = State.reset.dcw := rfl
@[simp] theorem hardReset_eccb (s : State) : (hardReset s).eccb = State.reset.eccb := rfl
@[simp] theorem hardReset_cw (s : State) : (hardReset s).cw = State.reset.cw := rfl
@[simp] theorem hardReset_modules (s : State) : (hardReset s).modules = State.reset.modules := rfl
@[simp] theorem hardReset_pending (s : State) : (hardReset s).pending = s.pending := rfl
@[simp] theorem hardReset_response (s : State) : (hardReset s).response = State.reset.response := rfl
@[simp] theorem hardReset_draws (s : State) : (hardReset s).draws = s.draws := rfl
@[simp] theorem hardReset_resets (s : State) : (hardReset s).resets = s.resets + 1 := rfl

/-! ### respond (R60) -/

@[simp] theorem respond_stage (r : Response) (s : State) : (respond r s).stage = s.stage := rfl
@[simp] theorem respond_errcode (r : Response) (s : State) : (respond r s).errcode = s.errcode := rfl
@[simp] theorem respond_errinfo (r : Response) (s : State) : (respond r s).errinfo = s.errinfo := rfl
@[simp] theorem respond_level (r : Response) (s : State) : (respond r s).level = s.level := rfl
@[simp] theorem respond_fver (r : Response) (s : State) : (respond r s).fver = s.fver := rfl
@[simp] theorem respond_tlen (r : Response) (s : State) : (respond r s).tlen = s.tlen := rfl
@[simp] theorem respond_ver (r : Response) (s : State) : (respond r s).ver = s.ver := rfl
@[simp] theorem respond_side (r : Response) (s : State) : (respond r s).side = s.side := rfl
@[simp] theorem respond_mask (r : Response) (s : State) : (respond r s).mask = s.mask := rfl
@[simp] theorem respond_nseg (r : Response) (s : State) : (respond r s).nseg = s.nseg := rfl
@[simp] theorem respond_bitlen (r : Response) (s : State) : (respond r s).bitlen = s.bitlen := rfl
@[simp] theorem respond_dlen (r : Response) (s : State) : (respond r s).dlen = s.dlen := rfl
@[simp] theorem respond_clen (r : Response) (s : State) : (respond r s).clen = s.clen := rfl
@[simp] theorem respond_nblk (r : Response) (s : State) : (respond r s).nblk = s.nblk := rfl
@[simp] theorem respond_scores (r : Response) (s : State) : (respond r s).scores = s.scores := rfl
@[simp] theorem respond_gfres (r : Response) (s : State) : (respond r s).gfres = s.gfres := rfl
@[simp] theorem respond_rsout (r : Response) (s : State) : (respond r s).rsout = s.rsout := rfl
@[simp] theorem respond_mem (r : Response) (s : State) : (respond r s).mem = s.mem := rfl
@[simp] theorem respond_segt (r : Response) (s : State) : (respond r s).segt = s.segt := rfl
@[simp] theorem respond_dcw (r : Response) (s : State) : (respond r s).dcw = s.dcw := rfl
@[simp] theorem respond_eccb (r : Response) (s : State) : (respond r s).eccb = s.eccb := rfl
@[simp] theorem respond_cw (r : Response) (s : State) : (respond r s).cw = s.cw := rfl
@[simp] theorem respond_modules (r : Response) (s : State) : (respond r s).modules = s.modules := rfl
@[simp] theorem respond_pending (r : Response) (s : State) : (respond r s).pending = s.pending := rfl
@[simp] theorem respond_response (r : Response) (s : State) : (respond r s).response = some r := rfl
@[simp] theorem respond_draws (r : Response) (s : State) : (respond r s).draws = s.draws := rfl
@[simp] theorem respond_resets (r : Response) (s : State) : (respond r s).resets = s.resets := rfl

end Sys2Proof.Machine
end

