-- ==== Sys2Proof/Laws/Ops.lean ====
section
/-! SUPPORT. What each shared operation and each stage command can do: one inversion lemma each, which later proofs cite
instead of unfolding the operation. -/

namespace Sys2Proof.Machine

/-- The stage test: SequenceFault at any other stage, the body at the required one (R308). -/
theorem atStage_cases (required : Stage) (op : Byte) (body : State → State) (s : State) :
    (s.stage ≠ required ∧ atStage required op body s = raise .sequenceFault op s) ∨
    (s.stage = required ∧ atStage required op body s = body s) := by
  unfold atStage
  split
  case isTrue h => exact .inl ⟨h, rfl⟩
  case isFalse h => exact .inr ⟨not_not.1 h, rfl⟩

@[simp] theorem errFlag_eq (s : State) : errFlag s = decide (s.errcode ≠ .noError) := rfl

@[simp] theorem errFlag_raise (e : ErrCode) (op : Byte) (s : State) : errFlag (raise e op s) = decide (e ≠ .noError) := rfl

/-- SEGMENT raises, or writes SEGT and NSEG and goes to stage 1 (R119). -/
theorem runSegment_cases (s : State) :
    (s.stage ≠ .idle ∧ runSegment s = raise .sequenceFault 0x10 s) ∨
    (s.stage = .idle ∧ (8192 < s.tlen.toNat ∨ 40 < s.fver.toNat) ∧ runSegment s = raise .badParameter 0x10 s) ∨
    (s.stage = .idle ∧ s.tlen.toNat ≤ 8192 ∧ s.fver.toNat ≤ 40 ∧
      ∃ list, list = segmentText (segmentationVersion s) (textSlice s 0 s.tlen.toNat) ∧
        runSegment s = { s with segt := list, nseg := BitVec.ofNat 14 list.length, stage := .segmented }) := by
  rcases atStage_cases .idle 0x10 segmentBody s with ⟨h, e⟩ | ⟨h, e⟩
  · exact .inl ⟨h, e⟩
  · rw [runSegment, e, segmentBody, Config.textMax, Config.verMax]
    split
    case isTrue ht => exact .inr (.inl ⟨h, .inl ht, rfl⟩)
    case isFalse ht =>
      split
      case isTrue hf => exact .inr (.inl ⟨h, .inr hf, rfl⟩)
      case isFalse hf => exact .inr (.inr ⟨h, by omega, by omega, _, rfl, rfl⟩)

/-- The last lines of VSELECT: InternalTableFault, or the results of the version v (R138, R307). -/
theorem acceptVersion_cases (list : List Segment) (v : Nat) (s : State) :
    ((blktab v s.level.toNat = none ∨ totcw v = none ∨ required v list = none) ∧
      acceptVersion list v s = raise .internalTableFault 0x11 s) ∨
    (∃ t total bits, blktab v s.level.toNat = some t ∧ totcw v = some total ∧ required v list = some bits ∧
      acceptVersion list v s = { s with
        ver := BitVec.ofNat 6 v, side := BitVec.ofNat 8 (sideOf v), bitlen := BitVec.ofNat 15 bits
        dlen := BitVec.ofNat 12 t.dcap, clen := BitVec.ofNat 12 total, nblk := BitVec.ofNat 7 t.nblk
        stage := .versioned }) := by
  unfold acceptVersion
  split
  case h_1 t total bits ht htot hb => exact .inr ⟨t, total, bits, ht, htot, hb, rfl⟩
  case h_2 hn =>
    refine .inl ⟨?_, rfl⟩
    rcases h1 : blktab v s.level.toNat with _ | t
    · exact .inl rfl
    · rcases h2 : totcw v with _ | total
      · exact .inr (.inl rfl)
      · rcases h3 : required v list with _ | bits
        · exact .inr (.inr rfl)
        · exact (hn t total bits h1 h2 h3).elim

/-- What a version that fits is: it has a table entry, and its required bits fit in the entry's capacity (R137). -/
theorem fits_iff (list : List Segment) (level v : Nat) :
    fits list level v = true ↔
      ∃ bits t, required v list = some bits ∧ blktab v level = some t ∧ bits ≤ 8 * t.dcap := by
  unfold fits
  split
  case h_1 bits t hb ht =>
    rw [decide_eq_true_iff]
    constructor
    · exact fun h => ⟨bits, t, hb, ht, h⟩
    · rintro ⟨bits', t', hb', ht', h⟩
      rw [hb] at hb'
      rw [ht] at ht'
      cases hb'
      cases ht'
      exact h
  case h_2 hn =>
    constructor
    · exact fun h => absurd h (by decide)
    · rintro ⟨bits, t, hb, ht, -⟩
      exact (hn bits t hb ht).elim

/-- The ascending scan finds the least version of 1..40 that fits (R138). -/
theorem leastFit_eq_some_iff (list : List Segment) (level v : Nat) :
    leastFit list level = some v ↔
      1 ≤ v ∧ v ≤ 40 ∧ fits list level v = true ∧ ∀ u, 1 ≤ u → u < v → fits list level u = false := by
  rw [leastFit, Config.verMax, List.find?_range'_eq_some]
  constructor
  · rintro ⟨hf, hmem, hlow⟩
    rw [List.mem_range'_1] at hmem
    exact ⟨hmem.1, by omega, hf, fun u h1 h2 => by simpa using hlow u h1 h2⟩
  · rintro ⟨h1, h40, hf, hlow⟩
    exact ⟨hf, List.mem_range'_1.2 ⟨h1, by omega⟩, fun u h1 h2 => by simpa using hlow u h1 h2⟩

/-- The scan finds nothing exactly when no version of 1..40 fits (R138). -/
theorem leastFit_eq_none_iff (list : List Segment) (level : Nat) :
    leastFit list level = none ↔ ∀ v, 1 ≤ v → v ≤ 40 → fits list level v = false := by
  rw [leastFit, Config.verMax, List.find?_eq_none]
  constructor
  · intro h v h1 h40
    simpa using h v (List.mem_range'_1.2 ⟨h1, by omega⟩)
  · intro h v hv
    have := List.mem_range'_1.1 hv
    simpa using h v this.1 (by omega)

/-- VSELECT raises, or accepts a version that fits (R138). -/
theorem runVselect_cases (s : State) :
    (s.stage ≠ .segmented ∧ runVselect s = raise .sequenceFault 0x11 s) ∨
    (s.stage = .segmented ∧ 40 < s.fver.toNat ∧ runVselect s = raise .badParameter 0x11 s) ∨
    (s.stage = .segmented ∧ s.fver.toNat ≤ 40 ∧ s.fver ≠ 0 ∧ fits (segments s) s.level.toNat s.fver.toNat = false ∧
      runVselect s = raise .versionTooSmall 0x11 s) ∨
    (s.stage = .segmented ∧ s.fver = 0 ∧ leastFit (segments s) s.level.toNat = none ∧
      runVselect s = raise .dataTooLong 0x11 s) ∨
    (s.stage = .segmented ∧ s.fver.toNat ≤ 40 ∧ ∃ v, fits (segments s) s.level.toNat v = true ∧
      ((s.fver ≠ 0 ∧ v = s.fver.toNat) ∨ (s.fver = 0 ∧ leastFit (segments s) s.level.toNat = some v)) ∧
      runVselect s = acceptVersion (segments s) v s) := by
  rcases atStage_cases .segmented 0x11 vselectBody s with ⟨h, e⟩ | ⟨h, e⟩
  · exact .inl ⟨h, e⟩
  · rw [runVselect, e, vselectBody, Config.verMax]
    split
    case isTrue hf => exact .inr (.inl ⟨h, hf, rfl⟩)
    case isFalse hf =>
      split
      case isTrue h0 =>
        split
        case isTrue hfit => exact .inr (.inr (.inr (.inr ⟨h, by omega, _, hfit, .inl ⟨h0, rfl⟩, rfl⟩)))
        case isFalse hfit => exact .inr (.inr (.inl ⟨h, by omega, h0, by simpa using hfit, rfl⟩))
      case isFalse h0 =>
        have h0 : s.fver = 0 := not_not.1 h0
        split
        case h_1 v hv =>
          exact .inr (.inr (.inr (.inr
            ⟨h, by omega, v, ((leastFit_eq_some_iff ..).1 hv).2.2.1, .inr ⟨h0, hv⟩, rfl⟩)))
        case h_2 hv => exact .inr (.inr (.inr (.inl ⟨h, h0, hv, rfl⟩)))

/-- PACK raises, or writes DCW and goes to stage 3 (R160). -/
theorem runPack_cases (s : State) :
    (s.stage ≠ .versioned ∧ runPack s = raise .sequenceFault 0x12 s) ∨
    (s.stage = .versioned ∧
      ((segmentStream s).length ≠ s.bitlen.toNat ∨ 8 * s.dlen.toNat < (segmentStream s).length ∨
        (completeStream (8 * s.dlen.toNat) (segmentStream s)).length ≠ 8 * s.dlen.toNat) ∧
      runPack s = raise .internalLengthFault 0x12 s) ∨
    (s.stage = .versioned ∧ (segmentStream s).length = s.bitlen.toNat ∧
      (segmentStream s).length ≤ 8 * s.dlen.toNat ∧
      (completeStream (8 * s.dlen.toNat) (segmentStream s)).length = 8 * s.dlen.toNat ∧
      runPack s = { s with
        dcw := cutBytes (completeStream (8 * s.dlen.toNat) (segmentStream s)), stage := .packed }) := by
  rcases atStage_cases .versioned 0x12 packBody s with ⟨h, e⟩ | ⟨h, e⟩
  · exact .inl ⟨h, e⟩
  · rw [runPack, e]
    simp only [packBody]
    split
    case isTrue hl => exact .inr (.inl ⟨h, by tauto, rfl⟩)
    case isFalse hl =>
      rw [not_or, not_not, not_lt] at hl
      split
      case isTrue hc => exact .inr (.inl ⟨h, .inr (.inr hc), rfl⟩)
      case isFalse hc => exact .inr (.inr ⟨h, hl.1, hl.2, not_not.1 hc, rfl⟩)

/-- RSENC raises, or writes ECCB and CW and goes to stage 4 (R205). -/
theorem runRsenc_cases (s : State) :
    (s.stage ≠ .packed ∧ runRsenc s = raise .sequenceFault 0x13 s) ∨
    (s.stage = .packed ∧ blktab s.ver.toNat s.level.toNat = none ∧ runRsenc s = raise .internalTableFault 0x13 s) ∨
    (s.stage = .packed ∧ ∃ t data ecc stream, blktab s.ver.toNat s.level.toNat = some t ∧
      data = dataBlocks t (dataCodewords s) ∧ ecc = data.map (fun d => rsRemainder d t.e) ∧
      stream = interleave t data ecc ∧
      (((t.dcap ≠ s.dlen.toNat ∨ t.nblk ≠ s.nblk.toNat ∨ s.dlen.toNat + t.nblk * t.e ≠ s.clen.toNat ∨
          stream.length ≠ s.clen.toNat) ∧ runRsenc s = raise .internalLengthFault 0x13 s) ∨
       (t.dcap = s.dlen.toNat ∧ t.nblk = s.nblk.toNat ∧ s.dlen.toNat + t.nblk * t.e = s.clen.toNat ∧
          stream.length = s.clen.toNat ∧
          runRsenc s = { s with eccb := ecc, cw := stream, stage := .coded }))) := by
  rcases atStage_cases .packed 0x13 rsencBody s with ⟨h, e⟩ | ⟨h, e⟩
  · exact .inl ⟨h, e⟩
  · rw [runRsenc, e, rsencBody]
    split
    case h_1 hn => exact .inr (.inl ⟨h, hn, rfl⟩)
    case h_2 t ht =>
      refine .inr (.inr ⟨h, t, _, _, _, ht, rfl, rfl, rfl, ?_⟩)
      split
      case isTrue hl => exact .inl ⟨by tauto, rfl⟩
      case isFalse hl =>
        simp only [not_or, not_not] at hl
        dsimp only
        split
        case isTrue hc => exact .inl ⟨.inr (.inr (.inr hc)), rfl⟩
        case isFalse hc => exact .inr ⟨hl.1, hl.2.1, hl.2.2, not_not.1 hc, rfl⟩

/-- MBUILD raises, or writes the built grid and goes to stage 5 (R228). -/
theorem runMbuild_cases (s : State) :
    (s.stage ≠ .coded ∧ runMbuild s = raise .sequenceFault 0x14 s) ∨
    (s.stage = .coded ∧ (rawmod s.ver.toNat = none ∨ s.side.toNat ≠ sideOf s.ver.toNat) ∧
      runMbuild s = raise .internalTableFault 0x14 s) ∨
    (s.stage = .coded ∧ s.side.toNat = sideOf s.ver.toNat ∧
      some (dataCount (builtGrid s.ver.toNat s.side.toNat)) ≠ rawmod s.ver.toNat ∧
      runMbuild s = raise .internalLengthFault 0x14 s) ∨
    (s.stage = .coded ∧ s.side.toNat = sideOf s.ver.toNat ∧
      rawmod s.ver.toNat = some (dataCount (builtGrid s.ver.toNat s.side.toNat)) ∧
      runMbuild s = { s with modules := builtGrid s.ver.toNat s.side.toNat, stage := .built }) := by
  rcases atStage_cases .coded 0x14 mbuildBody s with ⟨h, e⟩ | ⟨h, e⟩
  · exact .inl ⟨h, e⟩
  · rw [runMbuild, e]
    simp only [mbuildBody]
    split
    case h_1 hn => exact .inr (.inl ⟨h, .inl hn, rfl⟩)
    case h_2 modules hm =>
      split
      case isTrue hs => exact .inr (.inl ⟨h, .inr hs, rfl⟩)
      case isFalse hs =>
        split
        case isTrue hc =>
          exact .inr (.inr (.inl ⟨h, not_not.1 hs, by rw [hm]; simpa using hc, rfl⟩))
        case isFalse hc => exact .inr (.inr (.inr ⟨h, not_not.1 hs, by rw [hm, not_not.1 hc], rfl⟩))

/-- The traversal of MPLACE over the current matrix (R232). -/
theorem runMplace_cases (s : State) :
    (s.stage ≠ .built ∧ runMplace s = raise .sequenceFault 0x15 s) ∨
    (s.stage = .built ∧ rembits s.ver.toNat = none ∧ runMplace s = raise .internalTableFault 0x15 s) ∨
    (s.stage = .built ∧ ∃ remainder placed, rembits s.ver.toNat = some remainder ∧
      placed = placeBits (traversal s.side.toNat) (streamBits (codewords s)) (gridOf s) 0 ∧
      ((placed.2 ≠ 8 * s.clen.toNat + remainder ∧ runMplace s = raise .internalLengthFault 0x15 s) ∨
       (placed.2 = 8 * s.clen.toNat + remainder ∧
          runMplace s = { s with modules := placed.1, stage := .placed }))) := by
  rcases atStage_cases .built 0x15 mplaceBody s with ⟨h, e⟩ | ⟨h, e⟩
  · exact .inl ⟨h, e⟩
  · rw [runMplace, e]
    simp only [mplaceBody]
    split
    case h_1 hn => exact .inr (.inl ⟨h, hn, rfl⟩)
    case h_2 remainder hr =>
      refine .inr (.inr ⟨h, remainder, _, hr, rfl, ?_⟩)
      split
      case isTrue hc => exact .inl ⟨hc, rfl⟩
      case isFalse hc => exact .inr ⟨not_not.1 hc, rfl⟩

/-- MSELECT raises SequenceFault, or writes the scores, the mask and the masked matrix and goes to stage 7 (R260). -/
theorem runMselect_cases (s : State) :
    (s.stage ≠ .placed ∧ runMselect s = raise .sequenceFault 0x16 s) ∨
    (s.stage = .placed ∧ ∃ scores w, scores = trialScores s.side.toNat (gridOf s) ∧ w = winner scores ∧
      runMselect s = { s with
        scores := scores, modules := masked (gridOf s) w, mask := BitVec.ofNat 3 w.val, stage := .masked }) := by
  rcases atStage_cases .placed 0x16 mselectBody s with ⟨h, e⟩ | ⟨h, e⟩
  · exact .inl ⟨h, e⟩
  · exact .inr ⟨h, _, _, rfl, rfl, e⟩

/-- FORMAT raises, or writes the format and version information and goes to stage 8 (R270). -/
theorem runFormat_cases (s : State) :
    (s.stage ≠ .masked ∧ runFormat s = raise .sequenceFault 0x17 s) ∨
    (s.stage = .masked ∧ ∃ written, written =
        (writeFormatWord (formatWord s.level.toNat s.mask.toNat) s.side.toNat (gridOf s)).bind
          (writeVersionWord s.ver.toNat s.side.toNat) ∧
      ((written = none ∧ runFormat s = raise .internalTableFault 0x17 s) ∨
       (∃ g, written = some g ∧ runFormat s = { s with modules := g, stage := .final }))) := by
  rcases atStage_cases .masked 0x17 formatBody s with ⟨h, e⟩ | ⟨h, e⟩
  · exact .inl ⟨h, e⟩
  · refine .inr ⟨h, _, rfl, ?_⟩
    rw [runFormat, e]
    simp only [formatBody]
    split
    case h_1 g hg => exact .inr ⟨g, hg, rfl⟩
    case h_2 hn => exact .inl ⟨hn, rfl⟩

/-- A run of stage commands ends with one that raised, or all of them ran without an error (R295). -/
theorem runStages_cons (stage : State → State) (rest : List (State → State)) (s : State) :
    ((stage s).errcode ≠ .noError ∧ runStages (stage :: rest) s = stage s) ∨
    ((stage s).errcode = .noError ∧ runStages (stage :: rest) s = runStages rest (stage s)) := by
  rw [runStages, errFlag_eq]
  by_cases h : (stage s).errcode = .noError
  · exact .inr ⟨h, by simp [h]⟩
  · exact .inl ⟨h, by simp [h]⟩

/-- Every command answers a next state (R336). -/
theorem exec_next (i : Instr) (s : State) : ∃ t, exec i s = .next t := by
  cases i
  case gfdiv a b => simp only [exec, execGfdiv]; split <;> exact ⟨_, rfl⟩
  case gflog a => simp only [exec, execGflog]; split <;> exact ⟨_, rfl⟩
  case rsgen e => simp only [exec, execRsgen]; split <;> exact ⟨_, rfl⟩
  case rsblk k e => simp only [exec, execRsblk]; split <;> exact ⟨_, rfl⟩
  all_goals exact ⟨_, rfl⟩

/-- A command word is ignored, or reported as illegal, or its command runs (R91). -/
theorem execute_cases (w : Word) (s : State) :
    (s.errcode ≠ .noError ∧ passesGate (decode w) = false ∧ execute w s = .next s) ∨
    (s.errcode = .noError ∧ (∃ e, decode w = .error e) ∧
      execute w s = .next (raise .illegalCommand (opField w) s)) ∨
    (∃ i, decode w = .ok i ∧ (s.errcode = .noError ∨ i = .clear ∨ i = .encode) ∧ execute w s = exec i s) := by
  have gate : ∀ d, passesGate d = true → d = .ok .clear ∨ d = .ok .encode := by
    intro d hd
    rcases d with e | i
    · exact absurd hd (by simp [passesGate])
    · cases i <;> first | exact .inl rfl | exact .inr rfl | exact absurd hd (by simp [passesGate])
  unfold execute
  rw [errFlag_eq]
  by_cases he : s.errcode = .noError
  · simp only [he, ne_eq, not_true_eq_false, decide_false, Bool.false_and, Bool.false_eq_true, if_false]
    rcases hd : decode w with e | i
    · exact .inr (.inl ⟨trivial, ⟨e, rfl⟩, rfl⟩)
    · exact .inr (.inr ⟨i, rfl, .inl trivial, rfl⟩)
  · rcases hp : passesGate (decode w)
    · exact .inl ⟨he, rfl, by simp [he]⟩
    · rcases gate _ hp with hd | hd
      · exact .inr (.inr ⟨.clear, hd, .inr (.inl rfl), by simp [hd]⟩)
      · exact .inr (.inr ⟨.encode, hd, .inr (.inr rfl), by simp [hd]⟩)

theorem execute_next (w : Word) (s : State) : ∃ t, execute w s = .next t := by
  rcases execute_cases w s with ⟨-, -, h⟩ | ⟨-, -, h⟩ | ⟨i, -, -, h⟩
  · exact ⟨_, h⟩
  · exact ⟨_, h⟩
  · rw [h]; exact exec_next i s

/-- What a transaction can do to the state besides setting the response: nothing, draw free bytes, store a parameter, store
bytes, or execute a command word (R62, R63). -/
theorem transact_cases (t : Transaction) (s : State) :
    (∃ r, transact t s = .next (respond r s)) ∨
    (∃ r n, transact t s = .next (respond r { s with draws := n })) ∨
    (∃ l f n, transact t s = .next (respond .ok (invalidate { s with level := l, fver := f, tlen := n }))) ∨
    (∃ a bytes, textBase ≤ a ∧ transact t s = .next (respond .ok (invalidate { s with mem := storeBytes s.mem a bytes }))) ∨
    (∃ a bytes, rsinBase ≤ a ∧ a + bytes.length ≤ 0x400 ∧
      transact t s = .next (respond .ok { s with mem := storeBytes s.mem a bytes })) ∨
    (∃ w u, t = .writeWord 0 w ∧ execute w s = .next u ∧ transact t s = .next (respond .ok u)) := by
  have regionRange : ∀ a r, region a = some r →
      ∃ row ∈ addressMap, row.region = r ∧ row.first ≤ a ∧ a ≤ row.last := by
    intro a r hr
    rw [region, regionRow, Option.map_eq_some_iff] at hr
    obtain ⟨row, hrow, hreg⟩ := hr
    have hp := List.find?_some hrow
    simp only [Bool.and_eq_true, decide_eq_true_iff] at hp
    exact ⟨row, List.mem_of_find?_eq_some hrow, hreg, hp.1, hp.2⟩
  have window : ∀ a size (bytes : List Byte), refusedAccess a size = false → bytes.length = accessBytes size →
      (writeWindow a bytes s = s) ∨
      (textBase ≤ a ∧ writeWindow a bytes s = invalidate { s with mem := storeBytes s.mem a bytes }) ∨
      (rsinBase ≤ a ∧ a + bytes.length ≤ 0x400 ∧ writeWindow a bytes s = { s with mem := storeBytes s.mem a bytes }) := by
    intro a size bytes hr hlen
    unfold writeWindow
    split
    case h_1 h =>
      obtain ⟨row, hmem, hreg, hlo, -⟩ := regionRange a _ h
      refine .inr (.inl ⟨?_, rfl⟩)
      simp only [addressMap, List.mem_cons, List.not_mem_nil, or_false] at hmem
      rcases hmem with rfl | rfl | rfl | rfl | rfl | rfl | rfl | rfl | rfl | rfl | rfl <;>
        first | exact hlo | exact absurd hreg (by decide)
    case h_2 h =>
      have hend : region (a + accessBytes size - 1) = some .rsin := by
        simp only [refusedAccess, Bool.or_eq_false_iff, decide_eq_false_iff_not, not_not] at hr
        rw [hr.1.2, h]
      obtain ⟨row, hmem, hreg, hlo, -⟩ := regionRange a _ h
      obtain ⟨row', hmem', hreg', -, hhi'⟩ := regionRange _ _ hend
      have hsz : 1 ≤ accessBytes size := by cases size <;> decide
      refine .inr (.inr ⟨?_, ?_, rfl⟩)
      · simp only [addressMap, List.mem_cons, List.not_mem_nil, or_false] at hmem
        rcases hmem with rfl | rfl | rfl | rfl | rfl | rfl | rfl | rfl | rfl | rfl | rfl <;>
          first | exact hlo | exact absurd hreg (by decide)
      · have : a + accessBytes size - 1 ≤ 0x3FF := by
          simp only [addressMap, List.mem_cons, List.not_mem_nil, or_false] at hmem'
          rcases hmem' with rfl | rfl | rfl | rfl | rfl | rfl | rfl | rfl | rfl | rfl | rfl <;>
            first | exact hhi' | exact absurd hreg' (by decide)
        omega
    case h_3 => exact .inl rfl
  cases t with
  | read a size =>
    simp only [transact, memRead]
    split
    · exact .inl ⟨_, rfl⟩
    · split
      · exact .inl ⟨_, rfl⟩
      · exact .inr (.inl ⟨_, _, rfl⟩)
  | writeByte a v =>
    simp only [transact, memWriteByte]
    split
    case isTrue => exact .inl ⟨_, rfl⟩
    case isFalse hr =>
      rcases window a.toNat .one [v] (by simpa using hr) rfl with h | ⟨hb, h⟩ | ⟨hb, hl, h⟩ <;> rw [h]
      · exact .inl ⟨_, rfl⟩
      · exact .inr (.inr (.inr (.inl ⟨_, _, hb, rfl⟩)))
      · exact .inr (.inr (.inr (.inr (.inl ⟨_, _, hb, hl, rfl⟩))))
  | writeWord a v =>
    simp only [transact, memWriteWord]
    split
    case isTrue => exact .inl ⟨_, rfl⟩
    case isFalse hr =>
      split
      case isTrue =>
        split
        case isTrue h0 =>
          obtain ⟨u, hu⟩ := execute_next v s
          refine .inr (.inr (.inr (.inr (.inr ⟨v, u, ?_, hu, by rw [hu]; rfl⟩))))
          rw [show a = 0 from BitVec.eq_of_toNat_eq h0]
        case isFalse =>
          unfold writeRegister
          split
          · exact .inr (.inr (.inl ⟨_, s.fver, s.tlen, rfl⟩))
          · exact .inr (.inr (.inl ⟨s.level, _, s.tlen, rfl⟩))
          · exact .inr (.inr (.inl ⟨s.level, s.fver, _, rfl⟩))
          · exact .inl ⟨_, rfl⟩
      case isFalse =>
        rcases window a.toNat .four ((List.range 4).map (byteOfWord v)) (by simpa using hr) rfl
          with h | ⟨hb, h⟩ | ⟨hb, hl, h⟩ <;> rw [h]
        · exact .inl ⟨_, rfl⟩
        · exact .inr (.inr (.inr (.inl ⟨_, _, hb, rfl⟩)))
        · exact .inr (.inr (.inr (.inr (.inl ⟨_, _, hb, hl, rfl⟩))))

/-- A step does nothing with no event pending, else it takes the oldest one (log 1). -/
theorem step_cases (s : State) :
    (s.pending = [] ∧ step s = .next s) ∨
    (∃ rest, s.pending = .reset :: rest ∧ step s = .next (hardReset { s with pending := rest })) ∨
    (∃ t rest, s.pending = .transact t :: rest ∧ step s = transact t { s with pending := rest }) := by
  rcases h : s.pending with _ | ⟨e, rest⟩
  · exact .inl ⟨rfl, by simp [step, takeEvent, h]⟩
  · cases e with
    | reset => exact .inr (.inl ⟨rest, rfl, by simp [step, takeEvent, hostEvent, h]⟩)
    | transact t => exact .inr (.inr ⟨t, rest, rfl, by simp [step, takeEvent, hostEvent, h]⟩)

end Sys2Proof.Machine
end

