-- ==== Sys2Proof/Laws/PerInstr.lean ====
section
/-! SUPPORT. A statement about every command as syntax: the fields of its word (R90), and the mask and match of R92. -/

namespace Sys2Proof.Laws

theorem opField_word (z b a o : Byte) : opField (z ++ b ++ a ++ o) = o := by
  ext i hi
  simp only [opField, BitVec.getElem_extractLsb', BitVec.getLsbD_append]
  simp [hi]

theorem aField_word (z b a o : Byte) : aField (z ++ b ++ a ++ o) = a := by
  ext i hi
  simp only [aField, BitVec.getElem_extractLsb', BitVec.getLsbD_append]
  simp [hi]

theorem bField_word (z b a o : Byte) : bField (z ++ b ++ a ++ o) = b := by
  ext i hi
  simp only [bField, BitVec.getElem_extractLsb', BitVec.getLsbD_append]
  simp [hi, show ¬(16 + i < 8) by omega, show ¬(16 + i - 8 < 8) by omega, show 16 + i - 8 - 8 = i by omega]

theorem zField_word (z b a o : Byte) : zField (z ++ b ++ a ++ o) = z := by
  ext i hi
  simp only [zField, BitVec.getElem_extractLsb', BitVec.getLsbD_append]
  simp [show ¬(24 + i < 8) by omega, show ¬(24 + i - 8 < 8) by omega, show ¬(24 + i - 8 - 8 < 8) by omega,
    show 24 + i - 8 - 8 - 8 = i by omega, hi]

theorem mask_ab (b a o : Byte) : ((0 : Byte) ++ b ++ a ++ o : Word) &&& 0xFF0000FF = o.setWidth 32 := by
  refine BitVec.eq_of_getLsbD_eq fun i hi => ?_
  rw [BitVec.getLsbD_and]
  simp only [BitVec.getLsbD_append]
  interval_cases i <;> simp

theorem mask_a (a o : Byte) : ((0 : Byte) ++ (0 : Byte) ++ a ++ o : Word) &&& 0xFFFF00FF = o.setWidth 32 := by
  refine BitVec.eq_of_getLsbD_eq fun i hi => ?_
  rw [BitVec.getLsbD_and]
  simp only [BitVec.getLsbD_append]
  interval_cases i <;> simp

theorem mask_none (o : Byte) : ((0 : Byte) ++ (0 : Byte) ++ (0 : Byte) ++ o : Word) &&& 0xFFFFFFFF = o.setWidth 32 := by
  refine BitVec.eq_of_getLsbD_eq fun i hi => ?_
  rw [BitVec.getLsbD_and]
  simp only [BitVec.getLsbD_append]
  interval_cases i <;> simp

/-- The word of a command has its opcode in OP, its operands in A and B, 0 in Z, and is matched by the command's mask (R90,
R92). -/
def EncodingFields.Statement (i : Instr) : Prop :=
  opField (encode i) = opcode i ∧ aField (encode i) = (operandFields i).1 ∧ bField (encode i) = (operandFields i).2 ∧
  zField (encode i) = 0 ∧ encode i &&& matchMask i = (opcode i).setWidth 32

theorem EncodingFields.of_mask (i : Instr) (h : encode i &&& matchMask i = (opcode i).setWidth 32) :
    EncodingFields.Statement i :=
  ⟨opField_word .., aField_word .., bField_word .., zField_word .., h⟩

theorem EncodingFields.nop : EncodingFields.Statement .nop :=
  EncodingFields.of_mask _ (mask_none _)
theorem EncodingFields.clear : EncodingFields.Statement .clear :=
  EncodingFields.of_mask _ (mask_none _)
theorem EncodingFields.encode : EncodingFields.Statement .encode :=
  EncodingFields.of_mask _ (mask_none _)
theorem EncodingFields.segment : EncodingFields.Statement .segment :=
  EncodingFields.of_mask _ (mask_none _)
theorem EncodingFields.vselect : EncodingFields.Statement .vselect :=
  EncodingFields.of_mask _ (mask_none _)
theorem EncodingFields.pack : EncodingFields.Statement .pack :=
  EncodingFields.of_mask _ (mask_none _)
theorem EncodingFields.rsenc : EncodingFields.Statement .rsenc :=
  EncodingFields.of_mask _ (mask_none _)
theorem EncodingFields.mbuild : EncodingFields.Statement .mbuild :=
  EncodingFields.of_mask _ (mask_none _)
theorem EncodingFields.mplace : EncodingFields.Statement .mplace :=
  EncodingFields.of_mask _ (mask_none _)
theorem EncodingFields.mselect : EncodingFields.Statement .mselect :=
  EncodingFields.of_mask _ (mask_none _)
theorem EncodingFields.format : EncodingFields.Statement .format :=
  EncodingFields.of_mask _ (mask_none _)
theorem EncodingFields.gfmul (a b : Byte) : EncodingFields.Statement (.gfmul a b) :=
  EncodingFields.of_mask _ (mask_ab b a _)
theorem EncodingFields.gfdiv (a b : Byte) : EncodingFields.Statement (.gfdiv a b) :=
  EncodingFields.of_mask _ (mask_ab b a _)
theorem EncodingFields.gfexp (exponent : Nat) : EncodingFields.Statement (.gfexp exponent) :=
  EncodingFields.of_mask _ (mask_a _ _)
theorem EncodingFields.gflog (a : Byte) : EncodingFields.Statement (.gflog a) :=
  EncodingFields.of_mask _ (mask_a _ _)
theorem EncodingFields.rsgen (degree : Nat) : EncodingFields.Statement (.rsgen degree) :=
  EncodingFields.of_mask _ (mask_a _ _)
theorem EncodingFields.rsblk (dataCount eccCount : Nat) : EncodingFields.Statement (.rsblk dataCount eccCount) :=
  EncodingFields.of_mask _ (mask_ab _ _ _)

end Sys2Proof.Laws
end

