-- ==== Sys2Proof/Laws/PortMap.lean ====
section
/-! SUPPORT. The address map (R64): its regions are disjoint, so an address is in a region exactly when it is in that region's
bounds, and an aligned word lies in one region (R65). -/

namespace Sys2Proof.Machine

/-- Two regions that share an address are one (R64). -/
theorem addressMap_disjoint : ∀ p ∈ addressMap, ∀ q ∈ addressMap, p.first ≤ q.last → q.first ≤ p.last → p = q := by
  decide

/-- Every region starts and ends on a multiple of 4 (R65). -/
theorem addressMap_aligned : ∀ p ∈ addressMap, p.first % 4 = 0 ∧ (p.last + 1) % 4 = 0 := by decide

/-- An address lies in the row of the map whose bounds hold it, and in no other (R64). -/
theorem regionRow_eq_some {a : Nat} {row : RegionRow} :
    regionRow a = some row ↔ row ∈ addressMap ∧ row.first ≤ a ∧ a ≤ row.last := by
  unfold regionRow
  constructor
  · intro h
    exact ⟨List.mem_of_find?_eq_some h, by simpa using List.find?_some h⟩
  · rintro ⟨hmem, hlo, hhi⟩
    cases hfound : addressMap.find? fun r => decide (r.first ≤ a) && decide (a ≤ r.last) with
    | none => exact absurd (List.find?_eq_none.1 hfound row hmem) (by simp [hlo, hhi])
    | some p =>
      obtain ⟨h1, h2⟩ : p.first ≤ a ∧ a ≤ p.last := by simpa using List.find?_some hfound
      rw [addressMap_disjoint p (List.mem_of_find?_eq_some hfound) row hmem (by omega) (by omega)]

/-- The byte at offset i of a region's window (R64, R68). -/
theorem windowByte_of_mem {row : RegionRow} (h : row ∈ addressMap) (s : State) {i : Nat} (hi : row.first + i ≤ row.last) :
    windowByte s (row.first + i) = regionByte s row.region i := by
  rw [windowByte, regionRow_eq_some.2 ⟨h, by omega, hi⟩]
  simp only [Nat.add_sub_cancel_left]

/-- A word at a multiple of 4 lies in the region of its first byte (R65). -/
theorem regionRow_word {a : Nat} {row : RegionRow} (h : regionRow a = some row) (h4 : a % 4 = 0) {k : Nat} (hk : k < 4) :
    regionRow (a + k) = some row := by
  obtain ⟨hmem, hlo, hhi⟩ := regionRow_eq_some.1 h
  have := addressMap_aligned row hmem
  exact regionRow_eq_some.2 ⟨hmem, by omega, by omega⟩

end Sys2Proof.Machine
end

