-- ==== Sys2Proof/Laws/Stream.lean ====
section
/-! SUPPORT. The lengths of the packer's bit sequences (R150 to R159), and the bits of the bytes they are cut into. -/

namespace Sys2Proof.Machine

@[simp] theorem put_length (val n : Nat) : (put val n).length = n := by simp [put]

theorem numericPayload_length (l : List Nat) : (numericPayload l).length = payloadBits .numeric l.length := by
  induction l using numericPayload.induct with
  | case1 a b c rest ih =>
    simp only [numericPayload, List.length_append, put_length, ih, payloadBits, List.length_cons]
    rw [show rest.length + 1 + 1 + 1 = rest.length + 3 by omega, Nat.add_div_right _ (by decide), Nat.add_mod_right]
    omega
  | case2 a b => simp [numericPayload, payloadBits]
  | case3 a => simp [numericPayload, payloadBits]
  | case4 => simp [numericPayload, payloadBits]

theorem alphanumericPayload_length (l : List Nat) :
    (alphanumericPayload l).length = payloadBits .alphanumeric l.length := by
  induction l using alphanumericPayload.induct with
  | case1 a b rest ih =>
    simp only [alphanumericPayload, List.length_append, put_length, ih, payloadBits, List.length_cons]
    omega
  | case2 a => simp [alphanumericPayload, payloadBits]
  | case3 => simp [alphanumericPayload, payloadBits]

theorem bytePayload_length (l : List Nat) : (bytePayload l).length = payloadBits .byte l.length := by
  induction l with
  | nil => rfl
  | cons a rest ih =>
    simp only [bytePayload, List.length_append, put_length, ih, payloadBits, List.length_cons]
    omega

/-- A payload has as many bits as R113 says, whatever the characters are. -/
theorem payload_length (m : Mode) (chars : List Byte) : (payload m chars).length = payloadBits m chars.length := by
  cases m
  · simp only [payload, numericPayload_length, List.length_map]
  · simp only [payload, alphanumericPayload_length, List.length_map]
  · simp only [payload, bytePayload_length, List.length_map]

@[simp] theorem textSlice_length (s : State) (start n : Nat) : (textSlice s start n).length = n := by simp [textSlice]

/-- The bits of one segment (R151). -/
theorem emitSegment_length (s : State) (v : Nat) (g : Segment) :
    (emitSegment s v g).length = 4 + countWidth g.mode v + payloadBits g.mode g.count := by
  simp only [emitSegment, List.length_append, put_length, payload_length, textSlice_length]

theorem padBytes_length (p n : Nat) : (padBytes p n).length = 8 * n := by
  induction n generalizing p with
  | zero => rfl
  | succ n ih => simp only [padBytes, List.length_append, put_length, ih]; omega

/-- The completed bit sequence fills the capacity exactly (R157 to R159). -/
theorem completeStream_length (d : Nat) (bits : List Bool) (h : bits.length ≤ 8 * d) :
    (completeStream (8 * d) bits).length = 8 * d := by
  simp only [completeStream, withPadBytes, withBitPadding, withTerminator, List.length_append, put_length, padBytes_length]
  omega

/-- Cutting gives one byte for every eight bits (R156). -/
theorem cutBytes_length (bits : List Bool) : (cutBytes bits).length = bits.length / 8 := by
  induction bits using cutBytes.induct with
  | case1 b7 b6 b5 b4 b3 b2 b1 b0 rest ih =>
    simp only [cutBytes, List.length_cons, ih]
    omega
  | case2 bits h =>
    have hlt : bits.length < 8 := by
      rcases bits with _ | ⟨b7, _ | ⟨b6, _ | ⟨b5, _ | ⟨b4, _ | ⟨b3, _ | ⟨b2, _ | ⟨b1, _ | ⟨b0, rest⟩⟩⟩⟩⟩⟩⟩⟩
      case cons.cons.cons.cons.cons.cons.cons.cons => exact (h b7 b6 b5 b4 b3 b2 b1 b0 rest rfl).elim
      all_goals simp
    rw [cutBytes.eq_2 bits h, List.length_nil, Nat.div_eq_of_lt hlt]

/-- The stream has eight bits for every byte (R231). -/
theorem streamBits_length (cw : List Byte) : (streamBits cw).length = 8 * cw.length := by
  induction cw with
  | nil => rfl
  | cons b rest ih =>
    have h : streamBits (b :: rest) = (List.range 8).map (fun i => b.getLsbD (7 - i)) ++ streamBits rest := rfl
    rw [h, List.length_append, ih, List.length_map, List.length_range, List.length_cons]
    omega

end Sys2Proof.Machine
end

