-- ==== Sys2Proof/Tests/Slice0.lean ====
section
/-! SUPPORT. Tests. Every expected result stands in spec/ (the rule is named beside it) or follows from it by hand. Words are
written out bit by bit from the format of R90: Z, B, A, OP. -/

namespace Sys2Proof.Tests

open Sys2Proof.Machine

/-! ### Well-formed commands (R90) -/

theorem test_wellFormed_refuses_exponent : ¬(Instr.gfexp 256).WellFormed := by decide
theorem test_wellFormed_refuses_degree : ¬(Instr.rsgen 256).WellFormed := by decide
theorem test_wellFormed_refuses_data_count : ¬(Instr.rsblk 256 1).WellFormed := by decide
theorem test_wellFormed_refuses_ecc_count : ¬(Instr.rsblk 1 256).WellFormed := by decide
theorem test_wellFormed_accepts : (Instr.gfexp 255).WellFormed ∧ (Instr.rsblk 255 255).WellFormed := by decide

/-! ### Decoding, a word for every constructor (R90, R93) -/

theorem test_decode_nop : decode 0b00000000_00000000_00000000_00000000 = .ok .nop := by decide
theorem test_decode_clear : decode 0b00000000_00000000_00000000_00000001 = .ok .clear := by decide
theorem test_decode_encode : decode 0b00000000_00000000_00000000_00000010 = .ok .encode := by decide
theorem test_decode_segment : decode 0b00000000_00000000_00000000_00010000 = .ok .segment := by decide
theorem test_decode_vselect : decode 0b00000000_00000000_00000000_00010001 = .ok .vselect := by decide
theorem test_decode_pack : decode 0b00000000_00000000_00000000_00010010 = .ok .pack := by decide
theorem test_decode_rsenc : decode 0b00000000_00000000_00000000_00010011 = .ok .rsenc := by decide
theorem test_decode_mbuild : decode 0b00000000_00000000_00000000_00010100 = .ok .mbuild := by decide
theorem test_decode_mplace : decode 0b00000000_00000000_00000000_00010101 = .ok .mplace := by decide
theorem test_decode_mselect : decode 0b00000000_00000000_00000000_00010110 = .ok .mselect := by decide
theorem test_decode_format : decode 0b00000000_00000000_00000000_00010111 = .ok .format := by decide
theorem test_decode_gfmul : decode 0b00000000_11001010_01010011_00100000 = .ok (.gfmul 0x53 0xCA) := by decide
theorem test_decode_gfdiv : decode 0b00000000_11001010_10001111_00100001 = .ok (.gfdiv 0x8F 0xCA) := by decide
theorem test_decode_gfexp : decode 0b00000000_00000000_00001000_00100010 = .ok (.gfexp 8) := by decide
theorem test_decode_gflog : decode 0b00000000_00000000_00011101_00100011 = .ok (.gflog 0x1D) := by decide
theorem test_decode_rsgen : decode 0b00000000_00000000_00000010_00101000 = .ok (.rsgen 2) := by decide
theorem test_decode_rsblk : decode 0b00000000_00000011_00000101_00101001 = .ok (.rsblk 5 3) := by decide

/-- R92, R94: the four ways of being illegal; a count outside its range is none of them. -/
theorem test_decode_illegal :
    decode 0x00000003 = .error .unknownOpcode ∧ decode 0x01000000 = .error .nonzeroZ ∧
    decode 0x00000110 = .error .nonzeroA ∧ decode 0x00010222 = .error .nonzeroB ∧
    decode 0x00001F28 = .ok (.rsgen 31) := by decide

/-- The table numbering is that of the word itself: bits 31..0. -/
theorem test_decodeTableWord : decodeTableWord 32 0x00CA5320 = some (.gfmul 0x53 0xCA) := by decide

/-! ### Tables -/

/-- R133, the closed form: RAWMOD(v) for every version. -/
theorem test_rawmod_closed_form : ∀ v ∈ List.range' 1 40, rawmod v = some ((16 * v + 128) * v + 64
    - (if 2 ≤ v then (25 * (v / 7 + 2) - 10) * (v / 7 + 2) - 55 else 0) - (if 7 ≤ v then 36 else 0)) := by
  decide +kernel

/-- R134: the block sums equal TOTCW(v), and K1, N2 follow from TOTCW and NBLK. -/
theorem test_blktab_sums : ∀ v ∈ List.range' 1 40, ∀ level ∈ List.range 4, ∃ t ∈ blktab v level, ∃ total ∈ totcw v,
    t.n1 * (t.k1 + t.e) + t.n2 * (t.k2 + t.e) = total ∧ t.n2 = total % t.nblk ∧ t.k1 = total / t.nblk - t.e := by
  decide +kernel

/-- R143: DCAP grows with the version at each level and shrinks from L to H at each version. -/
theorem test_dcap_monotone : ∀ v ∈ List.range' 1 39, ∀ level ∈ List.range 4,
    ((blktab v level).map (·.dcap)).getD 0 < ((blktab (v + 1) level).map (·.dcap)).getD 0 ∧
    (level < 3 → ((blktab v (level + 1)).map (·.dcap)).getD 0 < ((blktab v level).map (·.dcap)).getD 0) := by
  decide +kernel

/-! ### States -/

/-- The reset state with a text written to TEXT and its length to TLEN. -/
def textState (text : List Byte) : State :=
  { State.reset with mem := storeBytes [] textBase text, tlen := BitVec.ofNat 14 text.length }

/-- HELLO WORLD (95 S1). -/
def helloText : List Byte := [0x48, 0x45, 0x4C, 0x4C, 0x4F, 0x20, 0x57, 0x4F, 0x52, 0x4C, 0x44]

/-- HELLO WORLD at level Q with its segment list, at stage 1. -/
def helloSegmented : State :=
  { textState helloText with level := 2, segt := [⟨.alphanumeric, 0, 11⟩], nseg := 1, stage := .segmented }

/-- HELLO WORLD at stage 2, with the registers of 95 S1. -/
def helloVersioned : State :=
  { helloSegmented with
    ver := 1, side := 21, bitlen := 74, dlen := 13, clen := 26, nblk := 1, stage := .versioned }

/-- The data codewords of HELLO WORLD (R160). -/
def helloDcw : List Byte := [0x20, 0x5B, 0x0B, 0x78, 0xD1, 0x72, 0xDC, 0x4D, 0x43, 0x40, 0xEC, 0x11, 0xEC]

/-- HELLO WORLD at stage 3. -/
def helloPacked : State := { helloVersioned with dcw := helloDcw, stage := .packed }

/-- The ecc codewords of HELLO WORLD (R205). -/
def helloEcc : List Byte := [0xA8, 0x48, 0x16, 0x52, 0xD9, 0x36, 0x9C, 0x00, 0x2E, 0x0F, 0xB4, 0x7A, 0x10]

/-- HELLO WORLD at stage 4. -/
def helloCoded : State := { helloPacked with eccb := [helloEcc], cw := helloDcw ++ helloEcc, stage := .coded }

/-- HELLO WORLD at stage 5. -/
def helloBuilt : State := { helloCoded with modules := builtGrid 1 21, stage := .built }

/-- A row of `width` modules from a number, its most significant bit leftmost, Dark 1. -/
def rowOf (width bits : Nat) : List Bool := (List.range width).map fun i => bits.testBit (width - 1 - i)

/-- The state an outcome holds; a fault and a refusal would give the reset state. -/
def next (o : Host.Outcome State Fault Refusal) : State :=
  match o with
  | .next s => s
  | _ => State.reset

/-! ### One command at a time -/

/-- R119, example: `12345` is one Numeric segment. -/
theorem test_segment_digits : (next (exec .segment (textState [0x31, 0x32, 0x33, 0x34, 0x35]))).segt = [⟨.numeric, 0, 5⟩] := by
  decide +kernel

/-- R121 (d), 95 S1: `HELLO WORLD` is one Alphanumeric segment. -/
theorem test_segment_hello : (next (exec .segment (textState helloText))).segt = [⟨.alphanumeric, 0, 11⟩] := by
  decide +kernel

/-- R138, example: `HELLO WORLD` at level Q. -/
theorem test_vselect_hello :
    let t := next (exec .vselect helloSegmented)
    (t.ver, t.side, t.bitlen, t.dlen, t.clen, t.nblk) = (1, 21, 74, 13, 26, 1) := by decide +kernel

/-- R140: 33 bytes at level L do not fit version 1. -/
theorem test_vselect_forced_too_small :
    let t := next (exec .vselect { State.reset with fver := 1, segt := [⟨.byte, 0, 33⟩], nseg := 1, stage := .segmented })
    t.errcode = .versionTooSmall ∧ t.errinfo = ⟨0x11, .segmented⟩ ∧ t.stage = .idle ∧ t.nseg = 0 := by decide +kernel

/-- R160, example. -/
theorem test_pack_hello : (next (exec .pack helloVersioned)).dcw = helloDcw := by decide +kernel

/-- R161: the empty text at level L, version 1. -/
theorem test_pack_empty :
    (next (exec .pack { State.reset with
      segt := [⟨.byte, 0, 0⟩], nseg := 1, ver := 1, side := 21, bitlen := 12, dlen := 19, clen := 26, nblk := 1
      stage := .versioned })).dcw =
    [0x40, 0x00, 0xEC, 0x11, 0xEC, 0x11, 0xEC, 0x11, 0xEC, 0x11, 0xEC, 0x11, 0xEC, 0x11, 0xEC, 0x11, 0xEC, 0x11, 0xEC] := by
  decide +kernel

/-- R205, example. -/
theorem test_rsenc_hello : (next (exec .rsenc helloPacked)).cw = helloDcw ++ helloEcc := by decide +kernel

/-- R206: version 5, level Q, data DCW[i] = i: the last data codewords of CW, and the first ecc codewords. -/
theorem test_interleave_long_blocks :
    let data := dataBlocks ⟨18, 2, 15, 2, 16⟩ ((List.range 62).map (BitVec.ofNat 8))
    ((interleave ⟨18, 2, 15, 2, 16⟩ data (data.map fun d => rsRemainder d 18)).drop 57).take 10 =
      [0x1D, 0x2C, 0x3C, 0x2D, 0x3D, 0x82, 0x55, 0x12, 0x44, 0x20] := by decide +kernel

/-- R230: row 8 of version 1 after MBUILD, `ffffff#ff----ffffffff`. -/
theorem test_mbuild_row8 : ((next (exec .mbuild helloCoded)).modules[8]?).map (·.map (·.prov)) =
    some (List.replicate 6 .format ++ [.function] ++ List.replicate 2 .format ++ List.replicate 4 .data
      ++ List.replicate 8 .format) := by decide +kernel

/-- R234, example: the first codeword 0x20 along the traversal. -/
theorem test_mplace_first_codeword :
    [(20, 20), (20, 19), (19, 20), (19, 19), (18, 20), (18, 19), (17, 20), (17, 19)].map
      (fun p => (gridAt (next (exec .mplace helloBuilt)).modules p.1 p.2).map (·.dark)) =
    [some false, some false, some true, some false, some false, some false, some false, some false] := by decide +kernel

/-- R246: the corner of mask 5, row 2: `X..X..X..X..`. -/
theorem test_mask5_row2 : (List.range 12).map (maskBit 5 2) = rowOf 12 0b100100100100 := by decide

/-- R264: P1, all Light 6 × 6, and P3, one Dark row in a 7 × 7 checkerboard. -/
theorem test_scores_by_hand :
    score 6 (List.replicate 6 (rowOf 6 0)) = 223 ∧
    score 7 [rowOf 7 0b1010101, rowOf 7 0b0101010, rowOf 7 0b1111111, rowOf 7 0b0101010, rowOf 7 0b1010101,
      rowOf 7 0b0101010, rowOf 7 0b1010101] = 15 := by decide +kernel

/-- R255, R264: on a matrix without Data modules all eight trials score alike, 223, and the lowest mask wins. -/
theorem test_mselect_tie :
    let t := next (exec .mselect { State.reset with
      stage := .placed, side := 6, modules := List.replicate 6 (List.replicate 6 ⟨false, .function⟩) })
    t.scores = Vector.replicate 8 223 ∧ t.mask = 0 ∧ t.stage = .masked := by decide +kernel

/-- R274, R275: level Q, mask 6, word 0x2EDA = 010111011011010 from bit 14: column 8 and row 8 of version 1. -/
theorem test_format_hello :
    let t := next (exec .format { helloBuilt with mask := 6, stage := .masked })
    [(0, 8), (1, 8), (2, 8), (3, 8), (4, 8), (5, 8), (7, 8), (8, 8), (8, 7), (8, 5), (8, 4), (8, 3), (8, 2), (8, 1), (8, 0)].map
      (fun p => (gridAt t.modules p.1 p.2).map (·.dark)) = (rowOf 15 0b010110110111010).map some := by decide +kernel

/-- R275, R279: format words and version words. -/
theorem test_information_words :
    formatWord 0 0 = 0x77C4 ∧ formatWord 1 0 = 0x5412 ∧ formatWord 3 7 = 0x083B ∧
    versionWord 7 = 0x07C94 ∧ versionWord 22 = 0x168C9 ∧ versionWord 40 = 0x28C69 := by decide

/-- R180, examples. -/
theorem test_gfmul : (next (exec (.gfmul 0x53 0xCA) State.reset)).gfres = 0x8F ∧
    (next (exec (.gfmul 0x02 0x80) State.reset)).gfres = 0x1D := by decide +kernel

/-- R181, examples, and the division by zero of zero. -/
theorem test_gfdiv : (next (exec (.gfdiv 0x8F 0xCA) State.reset)).gfres = 0x53 ∧
    (next (exec (.gfdiv 0x01 0x02) State.reset)).gfres = 0x8E ∧
    (next (exec (.gfdiv 0x00 0x00) State.reset)).errcode = .gfDomainFault := by decide +kernel

/-- R182, example and corner case. -/
theorem test_gfexp : (next (exec (.gfexp 8) State.reset)).gfres = 0x1D ∧
    (next (exec (.gfexp 255) State.reset)).gfres = 0x01 := by decide +kernel

/-- R183, example, and the error with GFRES unchanged. -/
theorem test_gflog : (next (exec (.gflog 0x1D) State.reset)).gfres = 8 ∧
    (next (exec (.gflog 0) { State.reset with gfres := 7, stage := .coded })).gfres = 7 ∧
    (next (exec (.gflog 0) { State.reset with gfres := 7, stage := .coded })).errinfo = ⟨0x23, .coded⟩ := by decide +kernel

/-- R207, example. -/
theorem test_rsgen : (next (exec (.rsgen 2) State.reset)).rsout.toList = [0x03, 0x02] ++ List.replicate 28 0 := by
  decide +kernel

/-- R208, example: RSIN 12 34 56, K = 3, E = 3. -/
theorem test_rsblk :
    (next (exec (.rsblk 3 3) { State.reset with mem := storeBytes [] rsinBase [0x12, 0x34, 0x56] })).rsout.toList =
      [0x81, 0xC3, 0x32] ++ List.replicate 27 0 := by decide +kernel

/-- R292, example: after a DataTooLong, CLEAR. -/
theorem test_clear : let t := next (exec .clear (raise .dataTooLong 0x11 helloSegmented))
    t.errcode = .noError ∧ t.errinfo = ⟨0, .idle⟩ ∧ t.tlen = 11 := by decide +kernel

/-- R296: TLEN > 8192 inside ENCODE, ERRINFO 0x010. -/
theorem test_encode_bad_parameter : let t := next (exec .encode { helloBuilt with tlen := 8193 })
    t.errcode = .badParameter ∧ errinfoWord t = 0x00000010 ∧ statusWord t = 0x00000010 ∧ t.ver = 0 := by decide +kernel

/-! ### The port and the step -/

/-- R38: ID. R66: a misaligned word, an unmapped byte, a byte of the register block. -/
theorem test_port_reads :
    (memRead 0x64 .four State.reset).response = some (.okWord 0x51524531) ∧
    (memRead 0x02001 .four State.reset).response = some .err ∧
    (memRead 0x00420 .one State.reset).response = some .err ∧
    (memRead 0x00004 .one State.reset).response = some .err := by decide +kernel

/-- R68: a word written to TEXT lies in it least significant byte first. -/
theorem test_port_little_endian :
    (next (memWriteWord 0x02004 0x44434241 State.reset)).mem =
      [(0x02004, 0x41), (0x02005, 0x42), (0x02006, 0x43), (0x02007, 0x44)] := by decide +kernel

/-- R69: SEGT[0] of `12345` reads 0x00050000. -/
theorem test_port_segt_entry :
    (memRead 0x10000 .four { State.reset with stage := .segmented, nseg := 1, segt := [⟨.numeric, 0, 5⟩] }).response =
      some (.okWord 0x00050000) := by decide +kernel

/-- R312: a legal command while an error is recorded changes nothing but the response. -/
theorem test_step_gate :
    let s := raise .dataTooLong 0x11 State.reset
    next (step (s.withFetchWord 32 0x00000822)) = respond .ok s := by decide +kernel

/-- The fetch: the word placed runs as the first command after reset. -/
theorem test_step_runs_placed_word :
    (next (step (State.reset.withFetchWord 32 0x00000822))).gfres = 0x1D := by decide +kernel

end Sys2Proof.Tests
end

