-- ==== Sys2Proof/Tests/Witnesses.lean ====
section
/-! SUPPORT. For every statement of Certificates/Slice0/Obligations.lean that has hypotheses, concrete states and operands that
meet all of them together, one theorem for each clause; where a clause speaks of a range, at its boundary. -/

namespace Sys2Proof.Tests

open Sys2Proof.Machine

/-! ### States -/

/-- The empty text at level L, segmented (R118). -/
def emptySegmented : State := { State.reset with segt := [⟨.byte, 0, 0⟩], nseg := 1, stage := .segmented }

/-- The empty text at level L with every register and buffer filled for version 1 (R161), at a given stage. -/
def emptyAt (stage : Stage) : State :=
  { emptySegmented with
    ver := 1, side := 21, bitlen := 12, dlen := 19, clen := 26, nblk := 1
    dcw := List.replicate 19 0x40, eccb := [List.replicate 7 0x11], cw := List.replicate 26 0x40
    modules := builtGrid 1 21, stage := stage }

/-- An error is recorded. -/
def failed : State := { State.reset with errcode := .dataTooLong, errinfo := ⟨0x11, .segmented⟩ }

theorem emptyAt_modules (stage : Stage) :
    (emptyAt stage).modules = builtGrid (emptyAt stage).ver.toNat (emptyAt stage).side.toNat := by
  have hv : (emptyAt stage).ver.toNat = 1 := rfl
  have hs : (emptyAt stage).side.toNat = 21 := rfl
  rw [hv, hs]
  simp only [emptyAt]

/-- These states are consistent from stage 2 to stage 8. -/
theorem emptyAt_consistent (stage : Stage) (h : 2 ≤ stage.code) : Consistent (emptyAt stage) where
  memory := rfl
  error_idle := fun h => absurd rfl h
  inputs := fun _ => ⟨Nat.zero_le _, Nat.zero_le _⟩
  version := fun _ => by
    change 1 ≤ 1 ∧ 1 ≤ 40 ∧ 21 = 4 * 1 + 17 ∧ 12 ≤ 8 * 19
    decide
  table := fun _ => ⟨⟨7, 1, 19, 0, 0⟩, rfl, rfl, rfl, rfl⟩
  unversioned := fun hlt => absurd hlt (Nat.not_lt.2 h)
  unsegmented := fun hlt => absurd hlt (by change ¬stage.code < 1; omega)
  unmasked := fun _ => ⟨rfl, rfl⟩
  segmented := fun _ => ⟨rfl, rfl⟩
  versioned := fun _ => rfl
  packed := fun _ => rfl
  coded := fun _ => rfl
  built := fun _ => by rw [emptyAt_modules]
  function_kept := fun _ r c m hm _ => by rw [emptyAt_modules]; exact hm
  no_internal_fault := ⟨fun h => ErrCode.noConfusion h, fun h => ErrCode.noConfusion h⟩

/-! ### Command words, steps, the sequencer -/

theorem witness_DecodeAndEncodeAgree : (Instr.rsblk 255 0).WellFormed ∧ decode 0x0000FF29 = .ok (.rsblk 255 0) := by decide

theorem witness_IllegalWordsRaiseIllegalCommand :
    decode 0xFF000000 = .error .nonzeroZ ∧ (helloCoded).errcode = .noError := by decide

theorem witness_StepRunsTheDecodedCommand :
    (State.reset.withFetchWord 32 0x00000010).pending = commandEvent 0x00000010 :: [] ∧
    decode 0x00000010 = .ok .segment ∧ (State.reset.withFetchWord 32 0x00000010).errcode = .noError := by decide

theorem witness_StepRunsTheDecodedCommand_gated :
    (failed.withFetchWord 32 0x00000001).pending = commandEvent 0x00000001 :: [] ∧ decode 0x00000001 = .ok .clear := by decide

theorem witness_RecordedErrorGatesCommands :
    failed.errcode ≠ .noError ∧ (0x00000000 : Word) ≠ 0x00000001 ∧ (0x00000000 : Word) ≠ 0x00000002 := by decide

theorem witness_EveryStepAnswers : State.reset.pending = [] := rfl

theorem witness_CommandsKeepInputsAndScratch : exec .clear helloCoded = .next (acknowledge helloCoded) := rfl

theorem witness_CommandsKeepInputsAndScratch_gfres :
    (next (exec (.gfexp 0) State.reset)).gfres ≠ State.reset.gfres := by decide

theorem witness_CommandsKeepInputsAndScratch_rsout :
    (next (exec (.rsgen 1) State.reset)).rsout ≠ State.reset.rsout := by decide +kernel

theorem witness_RaisedErrorsArePrecise :
    helloCoded.errcode = .noError ∧ exec .pack helloCoded = .next (raise .sequenceFault 0x12 helloCoded) ∧
    (raise .sequenceFault 0x12 helloCoded).errcode ≠ .noError ∧ Instr.pack ≠ .encode := ⟨rfl, rfl, by decide, by decide⟩

theorem witness_StageCommandsTestTheStage : (emptyAt .final).stage ≠ .masked := by decide

theorem witness_StageCommandsTestTheStage_others :
    exec .nop (raise .sequenceFault 0x10 State.reset) = .next (raise .sequenceFault 0x10 State.reset) ∧
    (raise .sequenceFault 0x10 State.reset).errcode = .sequenceFault := ⟨rfl, rfl⟩

theorem witness_StageCommandsTestTheStage_encode : exec .encode State.reset = .next (runEncode State.reset) := rfl

theorem witness_ParametersOutOfRangeRaiseBadParameter_tlen : ({ State.reset with tlen := 8193 } : State).stage = .idle ∧
    8192 < ({ State.reset with tlen := 8193 } : State).tlen.toNat := by decide

theorem witness_ParametersOutOfRangeRaiseBadParameter_fver : ({ State.reset with fver := 41 } : State).stage = .idle ∧
    40 < ({ State.reset with fver := 41 } : State).fver.toNat := by decide

theorem witness_ParametersOutOfRangeRaiseBadParameter_vselect : ({ emptySegmented with fver := 41 } : State).stage = .segmented ∧
    40 < ({ emptySegmented with fver := 41 } : State).fver.toNat := by decide

theorem witness_ParametersOutOfRangeRaiseBadParameter_degree : (0 < 1 ∨ 30 < 0) ∧ (31 < 1 ∨ 30 < 31) := by decide

theorem witness_ParametersOutOfRangeRaiseBadParameter_block : (1 < 1 ∨ 30 < 1 ∨ 0 < 1 ∨ 255 < 0 + 1) ∧ (30 < 1 ∨ 30 < 30 ∨ 226 < 1 ∨ 255 < 226 + 30) := by
  decide

/-! ### The GF and Reed-Solomon units -/

theorem witness_FieldLaws : gmul 0 5 = 0 ∧ (5 : Byte) ≠ 0 ∧ (254 ≤ 254) := by decide

theorem witness_GfdivResult : (0xFF : Byte) ≠ 0 ∧ (0 : Byte) = 0 := by decide

theorem witness_GfexpAndGflogResult : (1 : Byte) ≠ 0 ∧ (0 : Byte) = 0 := by decide

theorem witness_GeneratorHasConsecutiveRoots : 29 < 30 := by decide

theorem witness_RemainderIsLinear : ([0x12, 0x34] : List Byte).length = ([0x56, 0x78] : List Byte).length := rfl

theorem witness_SyndromesAreZero : 0 < 1 ∧ 29 < 30 := by decide

theorem witness_RsgenResult : 1 ≤ 30 ∧ 30 ≤ 30 ∧ 1 ≤ 1 := by decide

theorem witness_RsblkResult : 1 ≤ 30 ∧ 30 ≤ 30 ∧ 1 ≤ 225 ∧ 225 + 30 ≤ 255 ∧
    windowByte { State.reset with mem := storeBytes [] rsinBase [0x12] } (0x00300 + 0) = some 0x12 := by decide

theorem witness_RsencResult : Consistent (emptyAt .packed) ∧ (emptyAt .packed).stage = .packed :=
  ⟨emptyAt_consistent _ (by decide), rfl⟩

theorem witness_InterleavingOrdersCodewords :
    blktab 5 2 = some ⟨18, 2, 15, 2, 16⟩ ∧ (List.replicate 62 (7 : Byte)).length = (⟨18, 2, 15, 2, 16⟩ : BlkEntry).dcap ∧
    (List.replicate 4 (List.replicate 18 (9 : Byte))).length = (⟨18, 2, 15, 2, 16⟩ : BlkEntry).nblk ∧
    ∀ b ∈ List.replicate 4 (List.replicate 18 (9 : Byte)), b.length = 18 := by decide

/-! ### The Segmenter and the Version Selector -/

theorem witness_SegmentResult :
    let s : State := { State.reset with tlen := 8192, fver := 40 }
    s.stage = .idle ∧ s.tlen ≠ 0 ∧ s.tlen.toNat ≤ 8192 ∧ s.fver.toNat ≤ 40 := by decide

theorem witness_SegmentationCostIsLeast :
    ([0x31] : List Byte) ≠ [] ∧ SegmentsFrom [0x31] 0 [⟨.byte, 0, 1⟩] := by
  refine ⟨by decide, rfl, Nat.le_refl _, ?_, rfl⟩
  intro t h0 h1
  have : t = 0 := by change t < 0 + 1 at h1; omega
  subst this
  exact ⟨0x31, rfl, rfl⟩

theorem witness_TiesPreferSmallerModeThenLongerSegment :
    ([(0, 0x31)] : List (Nat × Byte)) ≠ [] ∧ IsCandidate 1 [(0, 0x31)] ⟨.numeric, 1, 18⟩ := by
  refine ⟨by decide, by decide, by decide, (0, 0x31), rfl, by decide⟩

theorem witness_EmptyTextGivesOneEmptySegment :
    let s : State := { State.reset with fver := 27 }
    s.stage = .idle ∧ s.tlen = 0 ∧ s.fver.toNat ≤ 40 := by decide

theorem witness_VselectResult :
    emptySegmented.stage = .segmented ∧ emptySegmented.fver.toNat ≤ 40 ∧ Chosen emptySegmented (segments emptySegmented) 1 :=
  ⟨rfl, by decide, by decide, .inr ⟨rfl, fun u h1 h2 => by omega⟩⟩

theorem witness_VselectResult_forced :
    let s : State := { emptySegmented with fver := 40 }
    s.stage = .segmented ∧ s.fver.toNat ≤ 40 ∧ Chosen s (segments s) 40 :=
  ⟨rfl, by decide, by decide +kernel, .inl ⟨by decide, rfl⟩⟩

theorem witness_VselectErrors_forced :
    let s : State := { emptySegmented with segt := [⟨.byte, 0, 33⟩], fver := 1 }
    s.stage = .segmented ∧ s.fver ≠ 0 ∧ s.fver.toNat ≤ 40 ∧ fits (segments s) s.level.toNat s.fver.toNat = false := by
  decide

theorem witness_VselectErrors_search :
    let s : State := { emptySegmented with segt := [⟨.byte, 0, 2954⟩] }
    s.stage = .segmented ∧ s.fver = 0 ∧ ∀ v, 1 ≤ v → v ≤ 40 → fits (segments s) s.level.toNat v = false := by
  have h : ∀ v, v < 41 → fits (segments { emptySegmented with segt := [⟨.byte, 0, 2954⟩] }) 0 v = false := by
    decide +kernel
  exact ⟨rfl, rfl, fun v _ hv => h v (by omega)⟩

theorem witness_NofitNeverDecides :
    blktab 40 0 = some ⟨30, 19, 118, 6, 119⟩ ∧ (∀ g ∈ [(⟨.alphanumeric, 0, 8192⟩ : Segment)], g.count ≤ 8192) ∧
    required 40 [⟨.alphanumeric, 0, 8192⟩] = none := by decide +kernel

/-! ### Packing, the matrix, masks, format information -/

theorem witness_PackResult : Consistent (emptyAt .versioned) ∧ (emptyAt .versioned).stage = .versioned :=
  ⟨emptyAt_consistent _ (by decide), rfl⟩

theorem witness_PackResult_bits : 12 ≤ 12 ∧ 12 < 8 * ((12 + min 4 (8 * 19 - 12) + 7) / 8) ∧
    (12 + min 4 (8 * 19 - 12) + 7) / 8 ≤ 18 ∧ 18 < 19 := by decide

theorem witness_MbuildResult : Consistent (emptyAt .coded) ∧ (emptyAt .coded).stage = .coded :=
  ⟨emptyAt_consistent _ (by decide), rfl⟩

theorem witness_BuiltGridModuleCounts : 1 ≤ 1 ∧ 1 ≤ 40 ∧ 1 ≤ 40 ∧ 40 ≤ 40 ∧ 177 = sideOf 40 := by decide

theorem witness_BuiltGridHasFinders : (finderPicture[6]?).bind (·[6]?) = some true := by decide

theorem witness_BuiltGridHasFunctionPatterns :
    7 < 8 ∧ 8 ≤ 8 ∧ 168 + 9 ≤ sideOf 40 ∧ 6 ∈ alignmentCoordinates 7 ∧ 22 ∈ alignmentCoordinates 7 ∧
    (6, 22) ∉ [(6, 6), (6, sideOf 7 - 7), (sideOf 7 - 7, 6)] ∧ 4 < 5 := by decide

theorem witness_BuiltGridReservesInformationModules :
    (8, 8) ∈ formatPositions 21 ++ versionPositions 1 21 ∧ (5, 36) ∈ formatPositions 45 ++ versionPositions 7 45 ∧
    ∃ m, gridAt (builtGrid 1 21) 0 8 = some m ∧ m.prov = .format :=
  ⟨by decide, by decide, ⟨false, .format⟩, by decide +kernel, rfl⟩

theorem witness_MplaceResult : Consistent (emptyAt .built) ∧ (emptyAt .built).stage = .built :=
  ⟨emptyAt_consistent _ (by decide), rfl⟩

theorem witness_MplaceResult_positions :
    (dataPositions (builtGrid 1 21) 21)[0]? = some (20, 20) ∧ (0, 0) ∉ dataPositions (builtGrid 1 21) 21 := by
  decide +kernel

theorem witness_MselectResult : (emptyAt .placed).stage = .placed := rfl

theorem witness_ScoresAreBounded :
    177 ≤ 177 ∧ (List.replicate 177 (List.replicate 177 true)).length = 177 ∧
    ∀ row ∈ List.replicate 177 (List.replicate 177 true), row.length = 177 := by
  refine ⟨Nat.le_refl _, List.length_replicate, fun row h => ?_⟩
  rw [List.eq_of_mem_replicate h, List.length_replicate]

theorem witness_FormatResult : Consistent (emptyAt .masked) ∧ (emptyAt .masked).stage = .masked :=
  ⟨emptyAt_consistent _ (by decide), rfl⟩

theorem witness_FormatResult_positions :
    formatPositions1[14]? = some (8, 0) ∧ (formatPositions2 21)[14]? = some (20, 8) ∧
    (versionPositions1 45)[17]? = some (5, 36) ∧ (versionPositions2 45)[0]? = some (34, 0) ∧
    (9, 9) ∉ formatPositions 21 ++ versionPositions 1 21 := by decide

theorem witness_FormatAndVersionWordsAreCodewords :
    3 < 4 ∧ 7 < 8 ∧ (0, 0) ≠ (3, 7) ∧ (7 ≤ 7 ∧ 7 ≤ 40) ∧ (7 ≤ 40 ∧ 40 ≤ 40) := by decide

/-! ### ENCODE, invariants, the port, reset -/

theorem witness_EncodeOutcomes : exec .encode State.reset = .next (runEncode State.reset) := rfl

/-- Two states with the inputs of reset that differ in everything else. -/
theorem witness_EncodeIsDeterministic :
    let s' : State := { emptyAt .final with errcode := .gfDomainFault, gfres := 9, resets := 5 }
    State.reset.level = s'.level ∧ State.reset.fver = s'.fver ∧ State.reset.tlen = s'.tlen ∧
    (∀ i, i < State.reset.tlen.toNat → textAt State.reset i = textAt s' i) ∧
    exec .encode State.reset = .next (runEncode State.reset) ∧ exec .encode s' = .next (runEncode s') :=
  ⟨rfl, rfl, rfl, fun i h => absurd h (Nat.not_lt_zero i), rfl, rfl⟩

/-- The three classes of ENCODE's failures have states that lead there; SEGMENT's is the cheapest. -/
theorem witness_EncodeOutcomes_failure :
    (next (exec .encode { State.reset with fver := 41 })).errcode = .badParameter := by decide +kernel

/-- ENCODE of the empty text from reset reaches stage 8 (R333). -/
theorem witness_EncodedSymbolShape :
    exec .encode State.reset = .next (runEncode State.reset) ∧ (runEncode State.reset).stage = .final :=
  ⟨rfl, by decide +kernel⟩

theorem witness_StepKeepsInvariants : Inv (emptyAt .final) ∧ step (emptyAt .final) = .next (emptyAt .final) :=
  ⟨(emptyAt_consistent _ (by decide)).toInv, rfl⟩

theorem witness_StepKeepsConsistency : Consistent (emptyAt .final) ∧ step (emptyAt .final) = .next (emptyAt .final) :=
  ⟨emptyAt_consistent _ (by decide), rfl⟩

theorem witness_PortErrorsAreThreeCases :
    transact (.read 0x00420 .one) State.reset = .next (respond .err State.reset) := rfl

theorem witness_ReadOnlyLocationsIgnoreWrites :
    (0xFC : Addr).toNat < 0x100 ∧ (0xFC : Addr).toNat % 4 = 0 ∧ (0xFC : Addr).toNat ∉ [0x00, 0x10, 0x14, 0x18] ∧
    (0x68 ≤ (0xFC : Addr).toNat) ∧ (0x1C : Addr).toNat = 0x1C := by decide

/-- The first window's first byte and the last window's last word. -/
theorem witness_ReadOnlyLocationsIgnoreWrites_windows :
    (0x00100 ≤ (0x00100 : Addr).toNat ∧ (0x00100 : Addr).toNat < 0x00300) ∧
    (0x20000 ≤ (0x2FFFC : Addr).toNat ∧ (0x2FFFC : Addr).toNat < 0x30000) ∧ (0x2FFFC : Addr).toNat % 4 = 0 := by decide

theorem witness_ReadsChangeNothing : ∃ u, transact (.read 0x04FFC .four) helloCoded = .next u := ⟨_, rfl⟩

theorem witness_ReadsChangeNothing_specified :
    windowByte helloCoded (0x02000 : Addr).toNat = some 0x48 ∧ (0x02000 : Addr).toNat % 4 = 0 ∧
    windowByte helloCoded ((0x02000 : Addr).toNat + 1) = some 0x45 ∧
    windowByte helloCoded ((0x02000 : Addr).toNat + 2) = some 0x4C ∧
    windowByte helloCoded ((0x02000 : Addr).toNat + 3) = some 0x4C := by decide +kernel

theorem witness_ReadsChangeNothing_unspecified :
    region (0x0400D : Addr).toNat ≠ none ∧ region (0x0400D : Addr).toNat ≠ some .reg ∧
    windowByte helloCoded (0x0400D : Addr).toNat = none := by decide +kernel

theorem witness_BufferWritesStoreBytes :
    region (0x03FFC : Addr).toNat = some .text ∧ region (0x00300 : Addr).toNat = some .rsin ∧
    (0x03FFC : Addr).toNat % 4 = 0 ∧ region 0x02000 = some .text ∧ 0x02000 ≠ (0x03FFC : Addr).toNat := by decide

theorem witness_GfWindowsShowTheTables : 255 < 256 ∧ 0 = 0 ∧ 255 ≠ 0 := by decide

theorem witness_ResultWindowLayouts_segt :
    1 ≤ (emptyAt .final).stage.code ∧ 0 < (emptyAt .final).nseg.toNat ∧ (emptyAt .final).segt[0]? = some ⟨.byte, 0, 0⟩ ∧
    0 < 8192 ∧ 3 < 4 := by decide

theorem witness_ResultWindowLayouts_mod :
    5 ≤ (emptyAt .built).stage.code ∧ 20 < (emptyAt .built).side.toNat ∧
    gridAt (emptyAt .built).modules 20 20 = some ⟨false, .data⟩ := by decide +kernel

theorem witness_ResultWindowLayouts_streams :
    4 ≤ (emptyAt .coded).stage.code ∧ 18 < (emptyAt .coded).dlen.toNat ∧ (emptyAt .coded).dcw[18]? = some 0x40 ∧
    25 < (emptyAt .coded).clen.toNat ∧ (emptyAt .coded).cw[25]? = some 0x40 := by decide

theorem witness_ResultWindowLayouts_eccb :
    4 ≤ (emptyAt .coded).stage.code ∧ blktab 1 0 = some ⟨7, 1, 19, 0, 0⟩ ∧ 0 < (emptyAt .coded).nblk.toNat ∧ 6 < 7 ∧
    (emptyAt .coded).eccb[0]? = some (List.replicate 7 0x11) ∧ (List.replicate 7 (0x11 : Byte))[6]? = some 0x11 := by decide

theorem witness_ResultWindowLayouts_idle :
    State.reset.stage = .idle ∧ region 0x2FFFF ∈ [some .segt, some .dcw, some .eccb, some .cw, some .mod] := by decide

theorem witness_ResultWindowLayouts_rsout : (30 = 30 ∨ 30 = 31) ∧ (31 = 30 ∨ 31 = 31) := by decide

/-- The producer has not run: the stage just below it. -/
theorem witness_ResultWindowLayouts_early :
    (emptyAt .versioned).stage.code < 3 ∧ (emptyAt .packed).stage.code < 4 ∧ (emptyAt .coded).stage.code < 5 ∧
    State.reset.stage.code < 1 := by decide

/-- The producer has run: the first entry past each extent, and the window's last. -/
theorem witness_ResultWindowLayouts_outside :
    (1 < 8192 ∧ (emptyAt .final).nseg.toNat ≤ 1) ∧ (19 < 4096 ∧ (emptyAt .final).dlen.toNat ≤ 19) ∧
    (26 < 4096 ∧ (emptyAt .final).clen.toNat ≤ 26) ∧ (4095 < 4096 ∧ (emptyAt .final).clen.toNat ≤ 4095) ∧
    (1 < 128 ∧ (emptyAt .final).nblk.toNat ≤ 1) ∧ (21 < 256 ∧ (emptyAt .final).side.toNat ≤ 21) := by decide

theorem witness_ResultWindowLayouts_outside_eccb :
    7 < 32 ∧ ∀ t, blktab (emptyAt .final).ver.toNat (emptyAt .final).level.toNat = some t → t.e ≤ 7 := by
  refine ⟨by decide, fun t h => ?_⟩
  cases Option.some.inj (show some (⟨7, 1, 19, 0, 0⟩ : BlkEntry) = some t from h)
  decide

theorem witness_ResetEventResets :
    ({ helloCoded with pending := [.reset] } : State).pending = .reset :: [] ∧
    region 0x00300 ∈ [some .text, some .rsin, some .segt, some .dcw, some .eccb, some .cw, some .mod] := by decide

end Sys2Proof.Tests
end

section
/-! SUPPORT. What a command can do to the state: one inversion lemma for all commands but ENCODE, and one induction for
ENCODE's run of the stage commands (R295). -/

namespace Sys2Proof.Machine

/-- What a command other than ENCODE can do (R93): raise an error under its own opcode; acknowledge one (CLEAR); write result
registers and result buffers; write GFRES (the four GF commands) or RSOUT (RSGEN and RSBLK). -/
inductive CommandOutcome (i : Instr) (s : State) : State → Prop
  | raised (e : ErrCode) (error : e ≠ .noError) : CommandOutcome i s (raise e (opcode i) s)
  | acknowledged : CommandOutcome i s (acknowledge s)
  | results (stage : Stage) (ver : BitVec 6) (side : BitVec 8) (mask : BitVec 3) (nseg : BitVec 14) (bitlen : BitVec 15)
      (dlen clen : BitVec 12) (nblk : BitVec 7) (scores : Vector Word 8) (segt : List Segment) (dcw : List Byte)
      (eccb : List (List Byte)) (cw : List Byte) (modules : Grid) :
      CommandOutcome i s { s with
        stage := stage, ver := ver, side := side, mask := mask, nseg := nseg, bitlen := bitlen, dlen := dlen, clen := clen
        nblk := nblk, scores := scores, segt := segt, dcw := dcw, eccb := eccb, cw := cw, modules := modules }
  | gfres (value : Byte) (command : opcode i ∈ [0x20, 0x21, 0x22, 0x23]) : CommandOutcome i s { s with gfres := value }
  | rsout (value : Vector Byte 30) (command : opcode i ∈ [0x28, 0x29]) : CommandOutcome i s { s with rsout := value }

theorem runSegment_outcome (s : State) : CommandOutcome .segment s (runSegment s) := by
  rcases runSegment_cases s with ⟨-, h⟩ | ⟨-, -, h⟩ | ⟨-, -, -, list, -, h⟩ <;> rw [h]
  · exact .raised _ (by decide)
  · exact .raised _ (by decide)
  · exact .results ..

theorem runVselect_outcome (s : State) : CommandOutcome .vselect s (runVselect s) := by
  rcases runVselect_cases s with ⟨-, h⟩ | ⟨-, -, h⟩ | ⟨-, -, -, -, h⟩ | ⟨-, -, -, h⟩ | ⟨-, -, v, -, -, h⟩ <;> rw [h]
  · exact .raised _ (by decide)
  · exact .raised _ (by decide)
  · exact .raised _ (by decide)
  · exact .raised _ (by decide)
  · rcases acceptVersion_cases (segments s) v s with ⟨-, ha⟩ | ⟨t, total, bits, -, -, -, ha⟩ <;> rw [ha]
    · exact .raised _ (by decide)
    · exact .results ..

theorem runPack_outcome (s : State) : CommandOutcome .pack s (runPack s) := by
  rcases runPack_cases s with ⟨-, h⟩ | ⟨-, -, h⟩ | ⟨-, -, -, -, h⟩ <;> rw [h]
  · exact .raised _ (by decide)
  · exact .raised _ (by decide)
  · exact .results ..

theorem runRsenc_outcome (s : State) : CommandOutcome .rsenc s (runRsenc s) := by
  rcases runRsenc_cases s with ⟨-, h⟩ | ⟨-, -, h⟩ | ⟨-, t, data, ecc, stream, -, -, -, -, ⟨-, h⟩ | ⟨-, -, -, -, h⟩⟩ <;> rw [h]
  · exact .raised _ (by decide)
  · exact .raised _ (by decide)
  · exact .raised _ (by decide)
  · exact .results ..

theorem runMbuild_outcome (s : State) : CommandOutcome .mbuild s (runMbuild s) := by
  rcases runMbuild_cases s with ⟨-, h⟩ | ⟨-, -, h⟩ | ⟨-, -, -, h⟩ | ⟨-, -, -, h⟩ <;> rw [h]
  · exact .raised _ (by decide)
  · exact .raised _ (by decide)
  · exact .raised _ (by decide)
  · exact .results ..

theorem runMplace_outcome (s : State) : CommandOutcome .mplace s (runMplace s) := by
  rcases runMplace_cases s with ⟨-, h⟩ | ⟨-, -, h⟩ | ⟨-, remainder, placed, -, -, ⟨-, h⟩ | ⟨-, h⟩⟩ <;> rw [h]
  · exact .raised _ (by decide)
  · exact .raised _ (by decide)
  · exact .raised _ (by decide)
  · exact .results ..

theorem runMselect_outcome (s : State) : CommandOutcome .mselect s (runMselect s) := by
  rcases runMselect_cases s with ⟨-, h⟩ | ⟨-, scores, w, -, -, h⟩ <;> rw [h]
  · exact .raised _ (by decide)
  · exact .results ..

theorem runFormat_outcome (s : State) : CommandOutcome .format s (runFormat s) := by
  rcases runFormat_cases s with ⟨-, h⟩ | ⟨-, written, -, ⟨-, h⟩ | ⟨g, -, h⟩⟩ <;> rw [h]
  · exact .raised _ (by decide)
  · exact .raised _ (by decide)
  · exact .results ..

/-- A property of the eight stage commands, one by one in pipeline order (R295). -/
theorem forall_mem_stageCommands {P : (State → State) → Prop} :
    (∀ f ∈ stageCommands, P f) ↔ P runSegment ∧ P runVselect ∧ P runPack ∧ P runRsenc ∧ P runMbuild ∧ P runMplace ∧
      P runMselect ∧ P runFormat := by
  simp [stageCommands]

/-- The commands of the eight stages (R93). -/
def stageInstrs : List Instr := [.segment, .vselect, .pack, .rsenc, .mbuild, .mplace, .mselect, .format]

/-- Each function that ENCODE runs does what its stage command can do. -/
theorem stageCommand_outcome : ∀ f ∈ stageCommands, ∀ s, ∃ i ∈ stageInstrs, CommandOutcome i s (f s) :=
  forall_mem_stageCommands.2
    ⟨fun s => ⟨.segment, by decide, runSegment_outcome s⟩, fun s => ⟨.vselect, by decide, runVselect_outcome s⟩,
     fun s => ⟨.pack, by decide, runPack_outcome s⟩, fun s => ⟨.rsenc, by decide, runRsenc_outcome s⟩,
     fun s => ⟨.mbuild, by decide, runMbuild_outcome s⟩, fun s => ⟨.mplace, by decide, runMplace_outcome s⟩,
     fun s => ⟨.mselect, by decide, runMselect_outcome s⟩, fun s => ⟨.format, by decide, runFormat_outcome s⟩⟩

/-- What every stage command keeps from an error-free state, ENCODE's run of them keeps (R295). -/
theorem runStages_keeps {P : State → Prop} (stages : List (State → State))
    (keeps : ∀ f ∈ stages, ∀ s, P s → s.errcode = .noError → P (f s)) (s : State) (hs : P s) (he : s.errcode = .noError) :
    P (runStages stages s) := by
  induction stages generalizing s with
  | nil => exact hs
  | cons f rest ih =>
    have hf : P (f s) := keeps f (List.mem_cons_self ..) s hs he
    rcases runStages_cons f rest s with ⟨-, h⟩ | ⟨hok, h⟩ <;> rw [h]
    · exact hf
    · exact ih (fun g hg => keeps g (List.mem_cons_of_mem _ hg)) (f s) hf hok

/-- Every command but ENCODE has one of the outcomes listed. -/
theorem exec_outcome {i : Instr} (hi : i ≠ .encode) {s t : State} (h : exec i s = .next t) : CommandOutcome i s t := by
  cases i with
  | nop => cases h; exact .results ..
  | clear => cases h; exact .acknowledged
  | encode => exact absurd rfl hi
  | segment => cases h; exact runSegment_outcome s
  | vselect => cases h; exact runVselect_outcome s
  | pack => cases h; exact runPack_outcome s
  | rsenc => cases h; exact runRsenc_outcome s
  | mbuild => cases h; exact runMbuild_outcome s
  | mplace => cases h; exact runMplace_outcome s
  | mselect => cases h; exact runMselect_outcome s
  | format => cases h; exact runFormat_outcome s
  | gfmul a b => cases h; exact .gfres _ (by simp [opcode])
  | gfexp n => cases h; exact .gfres _ (by simp [opcode])
  | gfdiv a b =>
    rw [exec, execGfdiv] at h
    split at h <;> cases h
    · exact .gfres _ (by simp [opcode])
    · exact .raised _ (by decide)
  | gflog a =>
    rw [exec, execGflog] at h
    split at h <;> cases h
    · exact .gfres _ (by simp [opcode])
    · exact .raised _ (by decide)
  | rsgen e =>
    rw [exec, execRsgen] at h
    split at h <;> cases h
    · exact .raised _ (by decide)
    · exact .rsout _ (by simp [opcode])
  | rsblk k e =>
    rw [exec, execRsblk] at h
    split at h <;> cases h
    · exact .raised _ (by decide)
    · exact .rsout _ (by simp [opcode])

end Sys2Proof.Machine
end

section
/-! SUPPORT. What no command writes (R37, R46, R299, R316), and what a command that raises leaves (R310, R316). -/

namespace Sys2Proof.Machine

theorem SameInputs.refl (s : State) : SameInputs s s := ⟨rfl, rfl, rfl, rfl, rfl, rfl, rfl, rfl⟩

theorem SameInputs.trans {s t u : State} (h : SameInputs s t) (k : SameInputs t u) : SameInputs s u := by
  obtain ⟨h1, h2, h3, h4, h5, h6, h7, h8⟩ := h
  obtain ⟨k1, k2, k3, k4, k5, k6, k7, k8⟩ := k
  exact ⟨k1.trans h1, k2.trans h2, k3.trans h3, k4.trans h4, k5.trans h5, k6.trans h6, k7.trans h7, k8.trans h8⟩

theorem invalidated_raise (e : ErrCode) (op : Byte) (s : State) : Invalidated (raise e op s) :=
  ⟨rfl, rfl, rfl, rfl, rfl, rfl, rfl, rfl, rfl, rfl⟩

theorem CommandOutcome.sameInputs {i : Instr} {s t : State} (h : CommandOutcome i s t) : SameInputs s t := by
  cases h <;> exact SameInputs.refl s

theorem CommandOutcome.gfres_changed {i : Instr} {s t : State} (h : CommandOutcome i s t) (hne : t.gfres ≠ s.gfres) :
    opcode i ∈ [0x20, 0x21, 0x22, 0x23] := by
  cases h
  case gfres value command => exact command
  all_goals exact absurd rfl hne

theorem CommandOutcome.rsout_changed {i : Instr} {s t : State} (h : CommandOutcome i s t) (hne : t.rsout ≠ s.rsout) :
    opcode i ∈ [0x28, 0x29] := by
  cases h
  case rsout value command => exact command
  all_goals exact absurd rfl hne

/-- From an error-free state only a raise leaves an error (R310). -/
theorem CommandOutcome.eq_raise {i : Instr} {s t : State} (h : CommandOutcome i s t) (hs : s.errcode = .noError)
    (ht : t.errcode ≠ .noError) : t = raise t.errcode (opcode i) s := by
  cases h
  case raised e error => rfl
  case acknowledged => exact absurd rfl ht
  all_goals exact absurd hs ht

/-- What ENCODE leaves of the state it starts from, and what it leaves if it ends with an error (R299, R316). -/
structure EncodeFrame (s t : State) : Prop where
  inputs : SameInputs s t
  gfres : t.gfres = s.gfres
  rsout : t.rsout = s.rsout
  error : t.errcode ≠ .noError → Invalidated t

/-- No stage command is a service command, so it keeps GFRES and RSOUT (R37, R46). -/
theorem CommandOutcome.keeps_scratch {i : Instr} (hi : i ∈ stageInstrs) {s t : State} (h : CommandOutcome i s t) :
    t.gfres = s.gfres ∧ t.rsout = s.rsout := by
  have noService : ∀ i ∈ stageInstrs, opcode i ∉ [0x20, 0x21, 0x22, 0x23] ∧ opcode i ∉ [0x28, 0x29] := by decide
  exact ⟨not_not.1 (mt h.gfres_changed (noService i hi).1), not_not.1 (mt h.rsout_changed (noService i hi).2)⟩

theorem runEncode_frame (s : State) : EncodeFrame s (runEncode s) := by
  refine runStages_keeps (P := EncodeFrame s) stageCommands (fun f hf t ht hok => ?_) (acknowledge s)
    ⟨SameInputs.refl s, rfl, rfl, fun h => absurd rfl h⟩ rfl
  obtain ⟨i, hi, outcome⟩ := stageCommand_outcome f hf t
  obtain ⟨hg, hr⟩ := outcome.keeps_scratch hi
  exact ⟨ht.inputs.trans outcome.sameInputs, hg.trans ht.gfres, hr.trans ht.rsout,
    fun he => outcome.eq_raise hok he ▸ invalidated_raise ..⟩

/-- Settles O7: every outcome of a command but ENCODE keeps the inputs, and ENCODE chains such outcomes. -/
theorem commandsKeepInputsAndScratch : Obligations.CommandsKeepInputsAndScratch := by
  intro i s t h
  by_cases hi : i = .encode
  · subst hi
    cases h
    have frame := runEncode_frame s
    exact ⟨frame.inputs, absurd frame.gfres, absurd frame.rsout⟩
  · have outcome := exec_outcome hi h
    exact ⟨outcome.sameInputs, outcome.gfres_changed, outcome.rsout_changed⟩

/-- Settles O8: only a raise leaves an error, and a raise keeps all that invalidation keeps. -/
theorem raisedErrorsArePrecise : Obligations.RaisedErrorsArePrecise := by
  intro i s t hs h ht
  by_cases hi : i = .encode
  · subst hi
    cases h
    have frame := runEncode_frame s
    exact ⟨frame.error ht, frame.inputs, frame.gfres, frame.rsout, fun hne => absurd rfl hne⟩
  · have hraise := (exec_outcome hi h).eq_raise hs ht
    generalize t.errcode = e at hraise
    subst hraise
    exact ⟨invalidated_raise .., SameInputs.refl s, rfl, rfl, fun _ => rfl⟩

end Sys2Proof.Machine
end

section
/-! SUPPORT. Invariants of the step: what a property of states must be kept by, shared by `Inv` and `Consistent`. -/

namespace Sys2Proof.Machine

/-- A property that each way to change the state keeps: the host's own fields, reset, a parameter or buffer write, an error
raised by rule (R311; never an internal one) or acknowledged, a service result, and a stage command run with no error. -/
structure StepInvariant (P : State → Prop) : Prop where
  host : ∀ s pending response draws, P s → P { s with pending := pending, response := response, draws := draws }
  reset : ∀ s, P (hardReset s)
  parameter : ∀ s level fver tlen, P s → P (invalidate { s with level := level, fver := fver, tlen := tlen })
  text : ∀ s a bytes, P s → P (invalidate { s with mem := storeBytes s.mem a bytes })
  rsin : ∀ s a bytes, a + bytes.length ≤ textBase → P s → P { s with mem := storeBytes s.mem a bytes }
  raised : ∀ s e op, e ≠ .internalLengthFault → e ≠ .internalTableFault → P s → P (raise e op s)
  acknowledged : ∀ s, P s → P (acknowledge s)
  scratch : ∀ s gfres rsout, P s → P { s with gfres := gfres, rsout := rsout }
  stage : ∀ f ∈ stageCommands, ∀ s, P s → s.errcode = .noError → P (f s)

namespace StepInvariant

variable {P : State → Prop}

theorem runEncode (inv : StepInvariant P) {s : State} (hs : P s) : P (Machine.runEncode s) :=
  runStages_keeps stageCommands inv.stage (acknowledge s) (inv.acknowledged s hs) rfl

/-- A command that the gate lets through keeps the property (R91, R312). -/
theorem exec (inv : StepInvariant P) {i : Instr} {s t : State} (hs : P s)
    (gate : s.errcode = .noError ∨ i = .clear ∨ i = .encode) (h : Machine.exec i s = .next t) : P t := by
  have stage : i ≠ .clear → i ≠ .encode → ∀ f ∈ stageCommands, P (f s) := fun hc he f hf =>
    inv.stage f hf s hs (gate.resolve_right (not_or.2 ⟨hc, he⟩))
  cases i with
  | nop => cases h; exact hs
  | clear => cases h; exact inv.acknowledged s hs
  | encode => cases h; exact inv.runEncode hs
  | segment => cases h; exact stage nofun nofun runSegment (by simp [stageCommands])
  | vselect => cases h; exact stage nofun nofun runVselect (by simp [stageCommands])
  | pack => cases h; exact stage nofun nofun runPack (by simp [stageCommands])
  | rsenc => cases h; exact stage nofun nofun runRsenc (by simp [stageCommands])
  | mbuild => cases h; exact stage nofun nofun runMbuild (by simp [stageCommands])
  | mplace => cases h; exact stage nofun nofun runMplace (by simp [stageCommands])
  | mselect => cases h; exact stage nofun nofun runMselect (by simp [stageCommands])
  | format => cases h; exact stage nofun nofun runFormat (by simp [stageCommands])
  | gfmul a b => cases h; exact inv.scratch s _ s.rsout hs
  | gfexp n => cases h; exact inv.scratch s _ s.rsout hs
  | gfdiv a b =>
    rw [Machine.exec, execGfdiv] at h
    split at h <;> cases h
    · exact inv.scratch s _ s.rsout hs
    · exact inv.raised s _ _ nofun nofun hs
  | gflog a =>
    rw [Machine.exec, execGflog] at h
    split at h <;> cases h
    · exact inv.scratch s _ s.rsout hs
    · exact inv.raised s _ _ nofun nofun hs
  | rsgen e =>
    rw [Machine.exec, execRsgen] at h
    split at h <;> cases h
    · exact inv.raised s _ _ nofun nofun hs
    · exact inv.scratch s s.gfres _ hs
  | rsblk k e =>
    rw [Machine.exec, execRsblk] at h
    split at h <;> cases h
    · exact inv.raised s _ _ nofun nofun hs
    · exact inv.scratch s s.gfres _ hs

theorem execute (inv : StepInvariant P) {w : Word} {s t : State} (hs : P s) (h : Machine.execute w s = .next t) : P t := by
  rcases execute_cases w s with ⟨-, -, hw⟩ | ⟨-, -, hw⟩ | ⟨i, -, gate, hw⟩ <;> rw [hw] at h
  · cases h; exact hs
  · cases h; exact inv.raised s _ _ nofun nofun hs
  · exact inv.exec hs gate h

theorem respond (inv : StepInvariant P) {s : State} (r : Response) (hs : P s) : P (Machine.respond r s) :=
  inv.host s s.pending (some r) s.draws hs

theorem transact (inv : StepInvariant P) {t : Transaction} {s u : State} (hs : P s) (h : Machine.transact t s = .next u) :
    P u := by
  rcases transact_cases t s with ⟨r, ht⟩ | ⟨r, n, ht⟩ | ⟨l, f, n, ht⟩ | ⟨a, bytes, -, ht⟩ | ⟨a, bytes, -, hend, ht⟩ |
      ⟨w, v, -, hw, ht⟩ <;>
    rw [ht] at h <;> cases h
  · exact inv.respond r hs
  · exact inv.host s s.pending (some r) n hs
  · exact inv.respond .ok (inv.parameter s l f n hs)
  · exact inv.respond .ok (inv.text s a bytes hs)
  · exact inv.respond .ok (inv.rsin s a bytes (hend.trans (by decide)) hs)
  · exact inv.respond .ok (inv.execute hs hw)

/-- Every step keeps a step invariant (R7, R60). -/
theorem step (inv : StepInvariant P) {s t : State} (hs : P s) (h : Machine.step s = .next t) : P t := by
  rcases step_cases s with ⟨-, he⟩ | ⟨rest, -, he⟩ | ⟨x, rest, -, he⟩ <;> rw [he] at h
  · cases h; exact hs
  · cases h; exact inv.reset _
  · exact inv.transact (inv.host s rest s.response s.draws hs) h

end StepInvariant

/-! ### The invariants of R52 -/

/-- In a state of stage 0 with all result registers 0 there is only the memory to check. -/
theorem Inv.of_invalidated {s : State} (hs : Invalidated s) (hm : Memory.wf s.mem = true) : Inv s := by
  obtain ⟨stage, ver, side, mask, nseg, bitlen, dlen, clen, nblk, scores⟩ := hs
  have code : s.stage.code = 0 := by rw [stage]; rfl
  exact {
    memory := hm
    error_idle := fun _ => stage
    inputs := fun h => absurd h (by omega)
    version := fun h => absurd h (by omega)
    table := fun h => absurd h (by omega)
    unversioned := fun _ => ⟨ver, side, bitlen, dlen, clen, nblk⟩
    unsegmented := fun _ => nseg
    unmasked := fun _ => ⟨mask, scores⟩ }

theorem invalidated_invalidate (s : State) : Invalidated (invalidate s) :=
  ⟨rfl, rfl, rfl, rfl, rfl, rfl, rfl, rfl, rfl, rfl⟩

/-- Moving on from stage 2 or later with the registers as they are, MSELECT's from stage 7 on excepted (R24). -/
theorem Inv.advance {s : State} (hs : Inv s) (stage : Stage) (dcw : List Byte) (eccb : List (List Byte)) (cw : List Byte)
    (modules : Grid) (hfrom : 2 ≤ s.stage.code) (hto : 2 ≤ stage.code)
    (hmask : stage.code < 7 → s.stage.code < 7) :
    Inv { s with stage := stage, dcw := dcw, eccb := eccb, cw := cw, modules := modules } where
  memory := hs.memory
  error_idle := fun h => absurd (hs.error_idle h) (by rintro h0; rw [h0] at hfrom; exact absurd hfrom (by decide))
  inputs := fun _ => hs.inputs (by omega)
  version := fun _ => hs.version hfrom
  table := fun _ => hs.table hfrom
  unversioned := fun h => absurd hto (Nat.not_le.2 h)
  unsegmented := fun h => absurd hto (by change stage.code < 1 at h; omega)
  unmasked := fun h => hs.unmasked (hmask h)

/-- TOTCW fits CLEN (R35, R133). -/
theorem totcw_le {v total : Nat} (h : totcw v = some total) : total ≤ 3706 := by
  have rows : ∀ row ∈ versionRows, row.rawmod / 8 ≤ 3706 := by decide +kernel
  simp only [totcw, rawmod, versionRow, Option.map_eq_some_iff] at h
  obtain ⟨_, ⟨row, hrow, rfl⟩, rfl⟩ := h
  split at hrow
  · cases hrow
  · exact rows row (List.mem_of_getElem? hrow)

/-- What an entry of BLKTAB is bounded by (R134). -/
theorem blktab_bounds {v level : Nat} {t : BlkEntry} (h : blktab v level = some t) :
    1 ≤ v ∧ v ≤ 40 ∧ t.dcap ≤ 2956 ∧ t.nblk ≤ 81 := by
  obtain ⟨h1, h40, -⟩ := (blktab_isSome_iff v level).1 (by rw [h]; rfl)
  have hok := blktab_ok h
  simp only [blkEntryOk, Bool.and_eq_true, decide_eq_true_iff] at hok
  obtain ⟨⟨-, hdcap⟩, hnblk⟩ := hok
  exact ⟨h1, h40, hdcap, hnblk⟩

theorem inv_raise {s : State} (e : ErrCode) (op : Byte) (hs : Inv s) : Inv (raise e op s) :=
  .of_invalidated (invalidated_raise ..) hs.memory

theorem inv_runSegment {s : State} (hs : Inv s) (hok : s.errcode = .noError) : Inv (runSegment s) := by
  rcases runSegment_cases s with ⟨-, h⟩ | ⟨-, -, h⟩ | ⟨h0, htlen, hfver, list, -, h⟩ <;> rw [h]
  · exact inv_raise _ _ hs
  · exact inv_raise _ _ hs
  · have code : s.stage.code = 0 := by rw [h0]; rfl
    exact {
      memory := hs.memory
      error_idle := absurd hok
      inputs := fun _ => ⟨hfver, htlen⟩
      version := fun h => absurd h (by simp [Stage.code])
      table := fun h => absurd h (by simp [Stage.code])
      unversioned := fun _ => hs.unversioned (by omega)
      unsegmented := fun h => absurd h (by simp [Stage.code])
      unmasked := fun _ => hs.unmasked (by omega) }

/-- Every register that VSELECT writes holds the value of the table and of R136, without loss (R138). -/
theorem accepted_registers {v level : Nat} {t : BlkEntry} {total bits : Nat}
    (ht : blktab v level = some t) (htotal : totcw v = some total) (hbits : bits ≤ 8 * t.dcap) :
    (BitVec.ofNat 6 v).toNat = v ∧ (BitVec.ofNat 8 (sideOf v)).toNat = sideOf v ∧ (BitVec.ofNat 15 bits).toNat = bits ∧
      (BitVec.ofNat 12 t.dcap).toNat = t.dcap ∧ (BitVec.ofNat 12 total).toNat = total ∧
      (BitVec.ofNat 7 t.nblk).toNat = t.nblk := by
  obtain ⟨-, h40, hdcap, hnblk⟩ := blktab_bounds ht
  have := totcw_le htotal
  simp only [BitVec.toNat_ofNat, sideOf]
  omega

/-- A version that fits is accepted: no table lookup of VSELECT is out of range (R134, R138, R307). -/
theorem acceptVersion_of_fits {list : List Segment} {v : Nat} {s : State} (hfit : fits list s.level.toNat v = true) :
    ∃ t total bits, blktab v s.level.toNat = some t ∧ totcw v = some total ∧ required v list = some bits ∧
      bits ≤ 8 * t.dcap ∧
      acceptVersion list v s = { s with
        ver := BitVec.ofNat 6 v, side := BitVec.ofNat 8 (sideOf v), bitlen := BitVec.ofNat 15 bits
        dlen := BitVec.ofNat 12 t.dcap, clen := BitVec.ofNat 12 total, nblk := BitVec.ofNat 7 t.nblk
        stage := .versioned } := by
  obtain ⟨bits, t, hbits, ht, hle⟩ := (fits_iff ..).1 hfit
  have htotal := blktab_total ht
  rcases acceptVersion_cases list v s with ⟨hnone, -⟩ | ⟨t', total', bits', ht', htotal', hbits', h⟩
  · simp [ht, htotal, hbits] at hnone
  · cases ht.symm.trans ht'
    cases hbits.symm.trans hbits'
    exact ⟨t, total', bits, ht, htotal', hbits, hle, h⟩

theorem inv_acceptVersion {list : List Segment} {s : State} {v : Nat} (hs : Inv s) (h1 : s.stage = .segmented)
    (hfit : fits list s.level.toNat v = true) : Inv (acceptVersion list v s) := by
  obtain ⟨t, total, bits, ht, htotal, -, hle, h⟩ := acceptVersion_of_fits hfit
  rw [h]
  obtain ⟨hver, hside, hbl, hdl, hcl, hnb⟩ := accepted_registers ht htotal hle
  obtain ⟨hv1, hv40, -, -⟩ := blktab_bounds ht
  have code : s.stage.code = 1 := by rw [h1]; rfl
  have hne : s.stage ≠ .idle := by rw [h1]; decide
  refine {
    memory := hs.memory
    error_idle := fun he => absurd (hs.error_idle he) hne
    inputs := fun _ => hs.inputs (by omega)
    version := fun _ => ?version
    table := fun _ => ⟨t, ?entry, hdl, ?total, hnb⟩
    unversioned := fun h => absurd h (by simp [Stage.code])
    unsegmented := fun h => absurd h (by simp [Stage.code])
    unmasked := fun _ => hs.unmasked (by omega) }
  case version =>
    dsimp only
    rw [hver, hside, hbl, hdl]
    exact ⟨hv1, hv40, rfl, hle⟩
  case entry => dsimp only; rw [hver, ht]
  case total => dsimp only; rw [hver, hcl, htotal]

theorem inv_runVselect {s : State} (hs : Inv s) : Inv (runVselect s) := by
  rcases runVselect_cases s with ⟨-, h⟩ | ⟨-, -, h⟩ | ⟨-, -, -, -, h⟩ | ⟨-, -, -, h⟩ | ⟨h1, -, v, hfit, -, h⟩ <;> rw [h]
  · exact inv_raise _ _ hs
  · exact inv_raise _ _ hs
  · exact inv_raise _ _ hs
  · exact inv_raise _ _ hs
  · exact inv_acceptVersion hs h1 hfit

theorem inv_runPack {s : State} (hs : Inv s) : Inv (runPack s) := by
  rcases runPack_cases s with ⟨-, h⟩ | ⟨-, -, h⟩ | ⟨h2, -, -, -, h⟩ <;> rw [h]
  · exact inv_raise _ _ hs
  · exact inv_raise _ _ hs
  · exact hs.advance .packed _ _ _ _ (by simp [h2, Stage.code]) (by decide) (by simp [h2, Stage.code])

theorem inv_runRsenc {s : State} (hs : Inv s) : Inv (runRsenc s) := by
  rcases runRsenc_cases s with ⟨-, h⟩ | ⟨-, -, h⟩ | ⟨h3, t, data, ecc, stream, -, -, -, -, ⟨-, h⟩ | ⟨-, -, -, -, h⟩⟩ <;> rw [h]
  · exact inv_raise _ _ hs
  · exact inv_raise _ _ hs
  · exact inv_raise _ _ hs
  · exact hs.advance .coded _ _ _ _ (by simp [h3, Stage.code]) (by decide) (by simp [h3, Stage.code])

theorem inv_runMbuild {s : State} (hs : Inv s) : Inv (runMbuild s) := by
  rcases runMbuild_cases s with ⟨-, h⟩ | ⟨-, -, h⟩ | ⟨-, -, -, h⟩ | ⟨h4, -, -, h⟩ <;> rw [h]
  · exact inv_raise _ _ hs
  · exact inv_raise _ _ hs
  · exact inv_raise _ _ hs
  · exact hs.advance .built _ _ _ _ (by simp [h4, Stage.code]) (by decide) (by simp [h4, Stage.code])

theorem inv_runMplace {s : State} (hs : Inv s) : Inv (runMplace s) := by
  rcases runMplace_cases s with ⟨-, h⟩ | ⟨-, -, h⟩ | ⟨h5, remainder, placed, -, -, ⟨-, h⟩ | ⟨-, h⟩⟩ <;> rw [h]
  · exact inv_raise _ _ hs
  · exact inv_raise _ _ hs
  · exact inv_raise _ _ hs
  · exact hs.advance .placed _ _ _ _ (by simp [h5, Stage.code]) (by decide) (by simp [h5, Stage.code])

theorem inv_runMselect {s : State} (hs : Inv s) : Inv (runMselect s) := by
  rcases runMselect_cases s with ⟨-, h⟩ | ⟨h6, scores, w, -, -, h⟩ <;> rw [h]
  · exact inv_raise _ _ hs
  · have inv := hs.advance .masked s.dcw s.eccb s.cw (masked (gridOf s) w) (by simp [h6, Stage.code]) (by decide)
      (by simp [Stage.code])
    exact { inv with unmasked := fun h => absurd h (by simp [Stage.code]) }

theorem inv_runFormat {s : State} (hs : Inv s) : Inv (runFormat s) := by
  rcases runFormat_cases s with ⟨-, h⟩ | ⟨h7, written, -, ⟨-, h⟩ | ⟨g, -, h⟩⟩ <;> rw [h]
  · exact inv_raise _ _ hs
  · exact inv_raise _ _ hs
  · exact hs.advance .final _ _ _ _ (by simp [h7, Stage.code]) (by decide) (by simp [Stage.code])

theorem inv_stepInvariant : StepInvariant Inv where
  host _ _ _ _ h := ⟨h.memory, h.error_idle, h.inputs, h.version, h.table, h.unversioned, h.unsegmented, h.unmasked⟩
  reset _ := .of_invalidated (invalidated_invalidate State.reset) rfl
  parameter _ _ _ _ h := .of_invalidated (invalidated_invalidate _) h.memory
  text s a bytes h := .of_invalidated (invalidated_invalidate _) (Memory.wf_storeBytes bytes s.mem a h.memory)
  rsin s a bytes _ h := ⟨Memory.wf_storeBytes bytes s.mem a h.memory, h.error_idle, h.inputs, h.version, h.table,
    h.unversioned, h.unsegmented, h.unmasked⟩
  raised _ e op _ _ h := inv_raise e op h
  acknowledged _ h := .of_invalidated (invalidated_invalidate _) h.memory
  scratch _ _ _ h := ⟨h.memory, h.error_idle, h.inputs, h.version, h.table, h.unversioned, h.unsegmented, h.unmasked⟩
  stage := forall_mem_stageCommands.2
    ⟨fun _ h => inv_runSegment h, fun _ h _ => inv_runVselect h, fun _ h _ => inv_runPack h, fun _ h _ => inv_runRsenc h,
     fun _ h _ => inv_runMbuild h, fun _ h _ => inv_runMplace h, fun _ h _ => inv_runMselect h,
     fun _ h _ => inv_runFormat h⟩

/-- Settles O50: `Inv` is a step invariant. -/
theorem stepKeepsInvariants : Obligations.StepKeepsInvariants := fun _ _ => inv_stepInvariant.step

end Sys2Proof.Machine
end

section
/-! SUPPORT. Grids of one provenance pattern: placement and masking change the colours of Data modules only (R234, R247), FORMAT
those of Format modules only (R270). -/

namespace Sys2Proof.Machine

/-- The provenance of the module at a position, none outside the grid. -/
def provAt (g : Grid) (p : Nat × Nat) : Option Provenance := (gridAt g p.1 p.2).map (·.prov)

theorem provAt_eq_provenances (g : Grid) (p : Nat × Nat) : provAt g p = ((provenances g)[p.1]?).bind (·[p.2]?) := by
  rw [provAt, gridAt, provenances, List.getElem?_map]
  cases g[p.1]? with
  | none => rfl
  | some row => simp

theorem provAt_congr {g g' : Grid} (h : provenances g' = provenances g) : provAt g' = provAt g := by
  funext p
  rw [provAt_eq_provenances, provAt_eq_provenances, h]

theorem provAt_eq_some {g : Grid} {p : Nat × Nat} {q : Provenance} :
    provAt g p = some q ↔ ∃ m, gridAt g p.1 p.2 = some m ∧ m.prov = q := by
  simp [provAt]

theorem isFormatModule_iff (g : Grid) (p : Nat × Nat) : isFormatModule g p = true ↔ provAt g p = some .format := by
  rw [isFormatModule, provAt]
  cases gridAt g p.1 p.2 <;> simp

/-- A grid with the provenances of a square one is square. -/
theorem Square.of_provenances {g g' : Grid} {n : Nat} (hs : Square g n) (h : provenances g' = provenances g) :
    Square g' n := by
  refine ⟨?_, fun row hrow => ?_⟩
  · simpa [provenances, hs.1] using congrArg List.length h
  · have hmem : row.map (·.prov) ∈ provenances g := h ▸ List.mem_map_of_mem hrow
    obtain ⟨row', hrow', heq⟩ := List.mem_map.1 hmem
    simpa [hs.2 row' hrow'] using (congrArg List.length heq).symm

/-- `g'` is `g` but for the colours of modules of provenance p. -/
structure Recoloured (p : Provenance) (g g' : Grid) : Prop where
  provenances_eq : provenances g' = provenances g
  kept : ∀ r c m, gridAt g r c = some m → m.prov ≠ p → gridAt g' r c = some m

theorem Recoloured.refl (p : Provenance) (g : Grid) : Recoloured p g g := ⟨rfl, fun _ _ _ h _ => h⟩

theorem Recoloured.trans {p : Provenance} {g g' g'' : Grid} (h : Recoloured p g g') (k : Recoloured p g' g'') :
    Recoloured p g g'' :=
  ⟨k.provenances_eq.trans h.provenances_eq, fun r c m hm hp => k.kept r c m (h.kept r c m hm hp) hp⟩

theorem Recoloured.provAt_eq {p : Provenance} {g g' : Grid} (h : Recoloured p g g') : provAt g' = provAt g :=
  provAt_congr h.provenances_eq

/-- Writing a module of the provenance that stands there keeps the pattern of provenances. -/
theorem provenances_gridSet {g : Grid} {r c : Nat} {old m : QrModule} (h : gridAt g r c = some old)
    (hp : m.prov = old.prov) : provenances (gridSet g r c m) = provenances g := by
  obtain ⟨row, hrow, hcell⟩ := (gridAt_eq_some_iff ..).1 h
  obtain ⟨hc, hold⟩ := List.getElem?_eq_some_iff.1 hcell
  have hset : (row.set c m).map (·.prov) = row.map (·.prov) := by
    rw [List.map_set, hp, ← hold, ← List.getElem_map (f := fun x : QrModule => x.prov) (h := by simpa using hc),
      List.set_getElem_self]
  refine List.ext_getElem? fun i => ?_
  rw [provenances, provenances, List.getElem?_map, List.getElem?_map, gridSet, List.getElem?_modify]
  by_cases hi : r = i
  · subst hi
    simp [hrow, hset]
  · simp [hi]

theorem Recoloured.gridSet {p : Provenance} {g : Grid} {r c : Nat} {m : QrModule} (h : gridAt g r c = some m)
    (hp : m.prov = p) (dark : Bool) : Recoloured p g (gridSet g r c { m with dark := dark }) := by
  refine ⟨provenances_gridSet h rfl, fun r' c' m' hm' hne' => ?_⟩
  have hne : (r', c') ≠ (r, c) := by
    rintro heq
    cases heq
    cases h.symm.trans hm'
    exact hne' hp
  rwa [gridAt_gridSet_other g _ hne]

/-! ### Placement (R232) -/

/-- Placement changes colours of Data modules only, and every Data module of the positions takes a bit. -/
theorem placeBits_spec (positions : List (Nat × Nat)) (bits : List Bool) (g : Grid) (j : Nat) :
    Recoloured .data g (placeBits positions bits g j).1 ∧
    (placeBits positions bits g j).2 = j + positions.countP fun p => provAt g p = some .data := by
  induction positions generalizing bits g j with
  | nil => exact ⟨.refl .., rfl⟩
  | cons p rest ih =>
    obtain ⟨r, c⟩ := p
    rw [placeBits, List.countP_cons]
    split
    case h_1 m hm =>
      have hprov : provAt g (r, c) = some m.prov := provAt_eq_some.2 ⟨m, hm, rfl⟩
      split
      case isTrue hdata =>
        have hset := Recoloured.gridSet hm hdata (nextBit bits)
        obtain ⟨hrec, hcount⟩ := ih bits.tail (Machine.gridSet g r c { m with dark := nextBit bits }) (j + 1)
        rw [hset.provAt_eq] at hcount
        refine ⟨hset.trans hrec, ?_⟩
        rw [hcount, hprov, hdata, if_pos (decide_eq_true rfl)]
        omega
      case isFalse hdata =>
        obtain ⟨hrec, hcount⟩ := ih bits g j
        exact ⟨hrec, by simp [hcount, hprov, hdata]⟩
    case h_2 hnone =>
      obtain ⟨hrec, hcount⟩ := ih bits g j
      exact ⟨hrec, by simp [hcount, provAt, hnone]⟩

/-! ### Masking (R247) -/

theorem maskModule_prov (m : Fin 8) (r c : Nat) (x : QrModule) : (maskModule m r c x).prov = x.prov := by
  rw [maskModule]
  split <;> rfl

theorem maskModule_of_ne_data (m : Fin 8) (r c : Nat) {x : QrModule} (h : x.prov ≠ .data) : maskModule m r c x = x := by
  rw [maskModule, if_neg fun hx => h hx.1]

theorem maskRow_getElem? (m : Fin 8) (r c : Nat) (row : List QrModule) (i : Nat) :
    (maskRow m r c row)[i]? = row[i]?.map (maskModule m r (c + i)) := by
  induction row generalizing c i with
  | nil => simp [maskRow]
  | cons x rest ih =>
    cases i with
    | zero => simp [maskRow]
    | succ i => simp [maskRow, ih, Nat.add_assoc, Nat.add_comm 1]

theorem maskRows_getElem? (m : Fin 8) (r : Nat) (g : Grid) (i : Nat) :
    (maskRows m r g)[i]? = g[i]?.map (maskRow m (r + i) 0) := by
  induction g generalizing r i with
  | nil => simp [maskRows]
  | cons row rest ih =>
    cases i with
    | zero => simp [maskRows]
    | succ i => simp [maskRows, ih, Nat.add_assoc, Nat.add_comm 1]

/-- Masking acts module by module (R247). -/
theorem gridAt_masked (g : Grid) (m : Fin 8) (r c : Nat) :
    gridAt (masked g m) r c = (gridAt g r c).map (maskModule m r c) := by
  rw [gridAt, gridAt, masked, maskRows_getElem?, Nat.zero_add]
  cases g[r]? with
  | none => rfl
  | some row => simp [maskRow_getElem?]

theorem maskRow_provs (m : Fin 8) (r c : Nat) (row : List QrModule) :
    (maskRow m r c row).map (·.prov) = row.map (·.prov) := by
  refine List.ext_getElem? fun i => ?_
  simp only [List.getElem?_map, maskRow_getElem?, Option.map_map, Function.comp_def, maskModule_prov]

theorem provenances_masked (g : Grid) (m : Fin 8) : provenances (masked g m) = provenances g := by
  refine List.ext_getElem? fun i => ?_
  simp only [provenances, masked, List.getElem?_map, maskRows_getElem?, Option.map_map, Function.comp_def, maskRow_provs]

theorem recoloured_masked (g : Grid) (m : Fin 8) : Recoloured .data g (masked g m) := by
  refine ⟨provenances_masked g m, fun r c x hx hp => ?_⟩
  rw [gridAt_masked, hx, Option.map_some, maskModule_of_ne_data m r c hp]

/-! ### Format and version information (R270) -/

theorem recoloured_setDark {g : Grid} {p : Nat × Nat} {q : Provenance} (h : provAt g p = some q) (dark : Bool) :
    Recoloured q g (setDark g p dark) := by
  obtain ⟨m, hm, hq⟩ := provAt_eq_some.1 h
  rw [setDark, hm]
  exact .gridSet hm hq dark

/-- Where all modules are Format, the bits of a word are written, and change colours of Format modules only. -/
theorem writeInfo_recoloured (word i : Nat) (pairs : List ((Nat × Nat) × (Nat × Nat))) (g : Grid)
    (hformat : ∀ pq ∈ pairs, provAt g pq.1 = some .format ∧ provAt g pq.2 = some .format) :
    ∃ g', writeInfo word i pairs g = some g' ∧ Recoloured .format g g' := by
  induction pairs generalizing i g with
  | nil => exact ⟨g, rfl, .refl ..⟩
  | cons pq rest ih =>
    obtain ⟨p, q⟩ := pq
    obtain ⟨hp, hq⟩ := hformat (p, q) (List.mem_cons_self ..)
    have hset1 := recoloured_setDark hp (word.testBit i)
    have hset2 := recoloured_setDark (hset1.provAt_eq ▸ hq) (word.testBit i)
    have hboth := hset1.trans hset2
    obtain ⟨g', hwrite, hrec⟩ := ih (i + 1) _ fun x hx => by
      rw [hboth.provAt_eq]
      exact hformat x (List.mem_cons_of_mem _ hx)
    refine ⟨g', ?_, hboth.trans hrec⟩
    rw [writeInfo, (isFormatModule_iff g p).2 hp, (isFormatModule_iff g q).2 hq]
    exact hwrite

/-- The matrix that the commands read is the one stored, once it has its size (R45). -/
theorem gridOf_eq_modules {s : State} (h : Square s.modules s.side.toNat) : gridOf s = s.modules := by
  refine List.ext_getElem (by simp [gridOf, h.1]) fun r hr hr' => ?_
  refine List.ext_getElem (by simp [gridOf, h.2 _ (List.getElem_mem hr')]) fun c hc hc' => ?_
  simp [gridOf, gridAt, hr', hc']

end Sys2Proof.Machine
end

section
/-! SUPPORT. The traversal of R232 meets every module outside column 6 exactly once, so placement meets every Data module of a
matrix whose column 6 holds none. -/

namespace Sys2Proof.Machine

theorem mem_stripRows {n : Nat} {up : Bool} {r : Nat} : r ∈ stripRows n up ↔ r < n := by
  cases up <;> simp [stripRows]

theorem nodup_stripRows (n : Nat) (up : Bool) : (stripRows n up).Nodup := by
  cases up
  · exact List.nodup_range
  · exact List.nodup_reverse.2 List.nodup_range

/-- The right columns of strips: even down to 6, odd below, as column 6 is skipped (R232). -/
def RightColumn (right : Nat) : Prop := (right % 2 = 0 ∧ 6 ≤ right) ∨ (right % 2 = 1 ∧ right ≤ 5)

/-- The modules of one strip. -/
theorem mem_strip {n : Nat} {up : Bool} {right r c : Nat} (h : 1 ≤ right) :
    (r, c) ∈ (stripRows n up).flatMap (fun r => [(r, right), (r, right - 1)]) ↔ r < n ∧ c ≤ right ∧ right ≤ c + 1 := by
  simp only [List.mem_flatMap, mem_stripRows, List.mem_cons, Prod.mk.injEq, List.not_mem_nil, or_false]
  constructor
  · rintro ⟨r', hr', ⟨rfl, rfl⟩ | ⟨rfl, rfl⟩⟩ <;> omega
  · rintro ⟨hr, hc1, hc2⟩
    exact ⟨r, hr, by omega⟩

theorem nodup_strip (n : Nat) (up : Bool) {right : Nat} (h : 1 ≤ right) :
    ((stripRows n up).flatMap fun r => [(r, right), (r, right - 1)]).Nodup := by
  refine List.nodup_flatMap.2 ⟨fun r _ => ?_, (nodup_stripRows n up).imp fun {r r'} hne => ?_⟩
  · simp only [List.nodup_cons, List.mem_singleton, Prod.mk.injEq, List.not_mem_nil, not_false_eq_true, List.nodup_nil,
      and_true, true_and]
    omega
  · simp [List.disjoint_left, Function.onFun, hne]

/-- The strips from a right column on hold the modules of the columns up to it but column 6, each once (R232). -/
theorem strips_spec (n fuel right : Nat) (up : Bool) (hright : RightColumn right) (h1 : 1 ≤ right)
    (hfuel : right < 2 * fuel) :
    (∀ r c, (r, c) ∈ strips n fuel right up ↔ r < n ∧ c ≤ right ∧ c ≠ 6) ∧ (strips n fuel right up).Nodup := by
  induction fuel generalizing right up with
  | zero => omega
  | succ fuel ih =>
    rw [strips, if_neg (by omega)]
    dsimp only
    generalize hk : (if right = 6 then 5 else right) = k
    have hskip : ∀ c, (c ≤ right ∧ c ≠ 6) ↔ (c ≤ k ∧ c ≠ 6) := by intro c; split at hk <;> omega
    have hk1 : 1 ≤ k ∧ k ≤ right ∧ ((k % 2 = 0 ∧ 8 ≤ k) ∨ (k % 2 = 1 ∧ k ≤ 5)) := by
      unfold RightColumn at hright
      split at hk <;> omega
    obtain ⟨hk1, hkr, hparity⟩ := hk1
    simp only [hskip]
    split
    case isTrue hlast =>
      rw [List.append_nil]
      exact ⟨fun r c => by rw [mem_strip hk1]; omega, nodup_strip n up hk1⟩
    case isFalse hmore =>
      obtain ⟨hmem, hnodup⟩ := ih (k - 2) (!up) (by unfold RightColumn; omega) (by omega) (by omega)
      refine ⟨fun r c => by rw [List.mem_append, mem_strip hk1, hmem]; omega,
        List.nodup_append.2 ⟨nodup_strip n up hk1, hnodup, ?_⟩⟩
      rintro ⟨r, c⟩ hfirst p hlater rfl
      have := (mem_strip hk1).1 hfirst
      have := (hmem r c).1 hlater
      omega

/-- The traversal of a matrix of odd side holds the positions outside column 6, each once (R232). -/
theorem traversal_spec {n : Nat} (h7 : 7 ≤ n) (hodd : n % 2 = 1) :
    (∀ r c, (r, c) ∈ traversal n ↔ r < n ∧ c < n ∧ c ≠ 6) ∧ (traversal n).Nodup := by
  obtain ⟨hmem, hnodup⟩ := strips_spec n n (n - 1) true (by unfold RightColumn; omega) (by omega) (by omega)
  exact ⟨fun r c => by rw [traversal, hmem]; omega, hnodup⟩

/-! ### Counting Data modules -/

/-- Mapping a list is mapping its indices. -/
theorem map_eq_map_range {α β : Type} (l : List α) (f : α → β) (d : β) :
    l.map f = (List.range l.length).map fun i => (l[i]?).elim d f :=
  List.ext_getElem (by simp) (by simp +contextual)

theorem countP_eq_countP_range {α : Type} (l : List α) (p : α → Bool) :
    l.countP p = (List.range l.length).countP fun i => (l[i]?).elim false p := by
  have h := congrArg (List.countP id) (map_eq_map_range l p false)
  simpa only [List.countP_map, Function.id_comp] using h

/-- The Data modules of a square matrix, counted by position. -/
theorem dataCount_eq_countP {g : Grid} {n : Nat} (h : Square g n) :
    dataCount g = (List.range n ×ˢ List.range n).countP fun p => provAt g p = some .data := by
  have positions : List.range n ×ˢ List.range n = (List.range n).flatMap fun r => (List.range n).map (Prod.mk r) := rfl
  rw [dataCount, map_eq_map_range g _ 0, h.1, positions, List.countP_flatMap]
  refine congrArg List.sum (List.map_congr_left fun r hr => ?_)
  have hr : r < g.length := h.1 ▸ List.mem_range.1 hr
  have hrow : g[r]? = some g[r] := List.getElem?_eq_getElem hr
  rw [hrow, Option.elim_some, countP_eq_countP_range, h.2 _ (List.getElem_mem hr), Function.comp_apply, List.countP_map]
  refine List.countP_congr fun c _ => ?_
  rw [Function.comp_apply, provAt, gridAt, hrow, Option.bind_some]
  cases g[r][c]? <;> simp

/-- Placement meets as many Data modules as there are, if none is in column 6. -/
theorem countP_traversal {g : Grid} {n : Nat} (h : Square g n) (h7 : 7 ≤ n) (hodd : n % 2 = 1)
    (h6 : ∀ r, provAt g (r, 6) ≠ some .data) :
    (traversal n).countP (fun p => provAt g p = some .data) = dataCount g := by
  obtain ⟨hmem, hnodup⟩ := traversal_spec h7 hodd
  rw [dataCount_eq_countP h, List.countP_eq_length_filter, List.countP_eq_length_filter]
  refine (List.perm_ext_iff_of_nodup (hnodup.filter _)
    ((List.nodup_range.product List.nodup_range).filter _)).2 (fun p => ?_) |>.length_eq
  obtain ⟨r, c⟩ := p
  rw [List.mem_filter, List.mem_filter, hmem, List.mem_product, List.mem_range, List.mem_range, decide_eq_true_iff]
  constructor
  · rintro ⟨⟨hr, hc, -⟩, hp⟩
    exact ⟨⟨hr, hc⟩, hp⟩
  · rintro ⟨⟨hr, hc⟩, hp⟩
    exact ⟨⟨hr, hc, by rintro rfl; exact h6 r hp⟩, hp⟩

end Sys2Proof.Machine
end

section
/-! SUPPORT. The provenances of the built matrix that placement and FORMAT rely on: no Data module in column 6, Format modules at
every position of format and version information, RAWMOD Data modules in all (R217 to R229). -/

namespace Sys2Proof.Machine

theorem mem_span {k : Nat} {d : Int} : d ∈ span k ↔ -(k : Int) ≤ d ∧ d ≤ k := by
  simp only [span, List.bind_eq_flatMap, List.pure_def, List.mem_map, List.mem_flatMap, List.mem_singleton, List.mem_range]
  constructor
  · rintro ⟨_, ⟨i, hi, rfl⟩, rfl⟩
    omega
  · rintro ⟨h1, h2⟩
    exact ⟨(d + k).toNat, ⟨_, by omega, rfl⟩, by omega⟩

theorem mem_squareStamps {k : Nat} {center : Int × Int} {stampOf : Int → Int → Nat → List Stamp} {st : Stamp} :
    st ∈ squareStamps k center stampOf ↔ ∃ dr dc : Int, (-(k : Int) ≤ dr ∧ dr ≤ k) ∧ (-(k : Int) ≤ dc ∧ dc ≤ k) ∧
      st ∈ stampOf (center.1 + dr) (center.2 + dc) (ring dr dc) := by
  simp only [squareStamps, List.mem_flatMap, mem_span]
  constructor
  · rintro ⟨dr, hr, dc, hc, h⟩
    exact ⟨dr, dc, hr, hc, h⟩
  · rintro ⟨dr, dc, hr, hc, h⟩
    exact ⟨dr, hr, dc, hc, h⟩

/-- (r, c) is at most k rows and k columns from a centre. -/
def Near (k : Int) (center : Int × Int) (r c : Int) : Prop :=
  (center.1 - k ≤ r ∧ r ≤ center.1 + k) ∧ (center.2 - k ≤ c ∧ c ≤ center.2 + k)

/-- A finder with its separator stamps within distance 4 of its centre (R217, R218). -/
theorem near_of_mem_finder {center : Int × Int} {st : Stamp} (h : st ∈ finderStamps center ++ separatorStamps center) :
    Near 4 center st.row st.col := by
  rcases List.mem_append.1 h with h | h
  · obtain ⟨dr, dc, hr, hc, hst⟩ := mem_squareStamps.1 h
    cases List.mem_singleton.1 hst
    unfold Near
    dsimp only
    omega
  · obtain ⟨dr, dc, hr, hc, hst⟩ := mem_squareStamps.1 h
    split at hst
    · cases List.mem_singleton.1 hst
      unfold Near
      dsimp only
      omega
    · exact absurd hst List.not_mem_nil

/-- A finder with its separator covers all of that square. -/
theorem finder_covers {center : Int × Int} {r c : Int} (h : Near 4 center r c) :
    ∃ st ∈ finderStamps center ++ separatorStamps center, st.row = r ∧ st.col = c := by
  obtain ⟨hr, hc⟩ := h
  have hsum : center.1 + (r - center.1) = r ∧ center.2 + (c - center.2) = c := by omega
  by_cases hring : ring (r - center.1) (c - center.2) = 4
  · refine ⟨⟨r, c, false, .function⟩, List.mem_append_right _ (mem_squareStamps.2
      ⟨r - center.1, c - center.2, by omega, by omega, ?_⟩), rfl, rfl⟩
    rw [hsum.1, hsum.2, if_pos hring]
    exact List.mem_singleton_self _
  · have hle : (-3 ≤ r - center.1 ∧ r - center.1 ≤ 3) ∧ (-3 ≤ c - center.2 ∧ c - center.2 ≤ 3) := by
      unfold ring at hring
      omega
    refine ⟨⟨r, c, decide (ring (r - center.1) (c - center.2) ≠ 2), .function⟩, List.mem_append_left _
      (mem_squareStamps.2 ⟨r - center.1, c - center.2, hle.1, hle.2, ?_⟩), rfl, rfl⟩
    rw [hsum.1, hsum.2]
    exact List.mem_singleton_self _

/-- The stamps of MBUILD by their kind (R227). -/
theorem mem_allStamps {v n : Nat} {st : Stamp} :
    st ∈ allStamps v n ↔
      (∃ center ∈ finderCenters n, st ∈ finderStamps center ++ separatorStamps center) ∨ st ∈ timingStamps n ∨
      (∃ center ∈ alignmentCenters n (alignmentCoordinates v), st ∈ alignmentStamps center) ∨ st = darkModule n ∨
      ∃ p ∈ formatPositions n ++ versionPositions v n, st = reservation p := by
  simp only [allStamps, List.mem_append, List.mem_flatMap, List.mem_map, List.mem_singleton, or_and_right, exists_or,
    eq_comm (a := st), or_assoc]

theorem mem_timingStamps {n : Nat} {st : Stamp} :
    st ∈ timingStamps n ↔ ∃ i : Nat, 8 ≤ i ∧ i < 8 + (n - 16) ∧
      (st = ⟨6, i, (i : Int) % 2 = 0, .function⟩ ∨ st = ⟨i, 6, (i : Int) % 2 = 0, .function⟩) := by
  simp only [timingStamps, List.bind_eq_flatMap, List.pure_def, List.mem_flatMap, List.mem_range'_1, List.mem_cons,
    List.not_mem_nil, or_false]
  constructor
  · rintro ⟨_, ⟨i, ⟨hlo, hhi⟩, rfl⟩, hst⟩
    exact ⟨i, hlo, hhi, hst⟩
  · rintro ⟨i, hlo, hhi, hst⟩
    exact ⟨i, ⟨i, ⟨hlo, hhi⟩, rfl⟩, hst⟩

theorem near_of_mem_alignment {center : Int × Int} {st : Stamp} (h : st ∈ alignmentStamps center) :
    Near 2 center st.row st.col := by
  obtain ⟨dr, dc, hr, hc, hst⟩ := mem_squareStamps.1 h
  cases List.mem_singleton.1 hst
  unfold Near
  dsimp only
  omega

/-- The provenance at a module of the built matrix that a stamp is at: that of one of those stamps (R216). -/
theorem provAt_builtGrid_of_stamps {v n r c : Nat} (P : Provenance → Prop) (hr : r < n) (hc : c < n)
    (hsome : ∃ st ∈ allStamps v n, st.row = r ∧ st.col = c)
    (hall : ∀ st ∈ allStamps v n, st.row = r → st.col = c → P st.prov) :
    ∃ q, provAt (builtGrid v n) (r, c) = some q ∧ P q := by
  rw [provAt, gridAt_builtGrid v hr hc]
  obtain ⟨st, hst, hat⟩ := hsome
  have hfind : ((allStamps v n).find? (Stamp.isAt r c)).isSome = true :=
    List.find?_isSome.2 ⟨st, hst, decide_eq_true hat⟩
  obtain ⟨st', hst'⟩ := Option.isSome_iff_exists.1 hfind
  have hat' : Stamp.isAt r c st' = true := List.find?_some hst'
  obtain ⟨hrow, hcol⟩ := of_decide_eq_true hat'
  rw [hst']
  exact ⟨st'.prov, rfl, hall st' (List.mem_of_find?_eq_some hst') hrow hcol⟩

/-- Every module of column 6 is stamped (R217 to R219). -/
theorem column6_stamped (v : Nat) {n r : Nat} (h : 21 ≤ n) (hr : r < n) :
    ∃ st ∈ allStamps v n, st.row = r ∧ st.col = (6 : Nat) := by
  by_cases htop : r ≤ 7
  · obtain ⟨st, hst, hat⟩ := finder_covers (center := (3, 3)) (r := r) (c := 6) (by unfold Near; dsimp only; omega)
    exact ⟨st, mem_allStamps.2 (.inl ⟨_, by simp [finderCenters], hst⟩), hat⟩
  · by_cases hbottom : n - 8 ≤ r
    · obtain ⟨st, hst, hat⟩ := finder_covers (center := ((n : Int) - 4, 3)) (r := r) (c := 6)
        (by unfold Near; dsimp only; omega)
      exact ⟨st, mem_allStamps.2 (.inl ⟨_, by simp [finderCenters], hst⟩), hat⟩
    · exact ⟨⟨r, 6, (r : Int) % 2 = 0, .function⟩,
        mem_allStamps.2 (.inr (.inl (mem_timingStamps.2 ⟨r, by omega, by omega, .inr rfl⟩))), rfl, rfl⟩

theorem provAt_builtGrid_column6 (v : Nat) {n : Nat} (h : 21 ≤ n) (r : Nat) :
    provAt (builtGrid v n) (r, 6) ≠ some .data := by
  intro hdata
  obtain ⟨m, hm, -⟩ := provAt_eq_some.1 hdata
  obtain ⟨q, hq, hne⟩ := provAt_builtGrid_of_stamps (v := v) (· ≠ .data) ((square_builtGrid v n).at_bounds hm).1 (by omega)
    (column6_stamped v h ((square_builtGrid v n).at_bounds hm).1) (fun st hst _ _ => by
      rcases allStamps_prov v n st hst with hp | hp <;> rw [hp] <;> decide)
  exact hne (Option.some.inj (hq.symm.trans hdata))

/-! ### The positions of format and version information (R224, R225) -/

/-- Where the format information stands: beside the finders, on row 8 or column 8 but not on the timing patterns or the dark
module. -/
theorem formatPositions_bounds {n : Nat} (h : 21 ≤ n) : ∀ p ∈ formatPositions n,
    (p.1 ≤ 8 ∧ p.1 ≠ 6 ∧ p.2 = 8) ∨ (p.1 = 8 ∧ p.2 ≤ 8 ∧ p.2 ≠ 6) ∨ (p.1 = 8 ∧ n - 8 ≤ p.2 ∧ p.2 < n) ∨
    (n - 7 ≤ p.1 ∧ p.1 < n ∧ p.2 = 8) := by
  simp only [formatPositions, formatPositions1, formatPositions2, List.cons_append, List.nil_append, List.forall_mem_cons,
    List.not_mem_nil, false_implies, implies_true, and_true, true_and]
  and_intros <;> omega

/-- Where the version information stands: next to the separators at the top right and at the bottom left. -/
theorem versionPositions_bounds {v n : Nat} (h : 21 ≤ n) : ∀ p ∈ versionPositions v n,
    7 ≤ v ∧ ((p.1 ≤ 5 ∧ n - 11 ≤ p.2 ∧ p.2 ≤ n - 9) ∨ (n - 11 ≤ p.1 ∧ p.1 ≤ n - 9 ∧ p.2 ≤ 5)) := by
  intro p hp
  rw [versionPositions] at hp
  split at hp
  case isTrue h7 =>
    simp only [versionPositions1, versionPositions2, List.mem_append, List.mem_map, List.mem_range] at hp
    obtain ⟨i, hi, rfl⟩ | ⟨i, hi, rfl⟩ := hp <;> dsimp only <;> omega
  case isFalse => exact absurd hp List.not_mem_nil

/-- The alignment coordinates stay clear of the finders but for the first and the last (R133, R221). -/
theorem alignmentCoordinates_bounds : ∀ v ∈ List.range' 1 40, ∀ a ∈ alignmentCoordinates v,
    a = 6 ∨ (18 ≤ a ∧ (a = sideOf v - 7 ∨ a + 14 ≤ sideOf v)) := by decide +kernel

/-- No Function stamp is at a position of format or version information. -/
theorem stamp_at_infoPosition {v : Nat} (h1 : 1 ≤ v) (h40 : v ≤ 40) {p : Nat × Nat}
    (hp : p ∈ formatPositions (sideOf v) ++ versionPositions v (sideOf v)) {st : Stamp} (hst : st ∈ allStamps v (sideOf v))
    (hrow : st.row = p.1) (hcol : st.col = p.2) : st.prov = .format := by
  have hside : sideOf v = 4 * v + 17 := rfl
  have hpos := (List.mem_append.1 hp).imp (formatPositions_bounds (by omega) p) (versionPositions_bounds (by omega) p)
  rcases mem_allStamps.1 hst with ⟨center, hcenter, h⟩ | h | ⟨center, hcenter, h⟩ | h | ⟨q, -, rfl⟩
  · exfalso
    have hnear := near_of_mem_finder h
    simp only [finderCenters, List.mem_cons, List.not_mem_nil, or_false] at hcenter
    unfold Near at hnear
    rcases hcenter with rfl | rfl | rfl <;> dsimp only at hnear <;> omega
  · exfalso
    obtain ⟨i, hlo, hhi, rfl | rfl⟩ := mem_timingStamps.1 h <;> dsimp only at hrow hcol <;> omega
  · exfalso
    have hnear := near_of_mem_alignment h
    have hcoord := alignmentCoordinates_bounds v (List.mem_range'_1.2 ⟨h1, by omega⟩)
    simp only [alignmentCenters, List.mem_flatMap, List.mem_map, List.mem_filter, decide_eq_true_iff,
      List.bind_eq_flatMap, List.pure_def, List.mem_singleton] at hcenter
    obtain ⟨ar, har, _, ⟨ac, ⟨hac, hcorner⟩, rfl⟩, rfl⟩ := hcenter
    have := hcoord ar har
    have := hcoord ac hac
    unfold Near at hnear
    dsimp only at hnear
    omega
  · exfalso
    rw [h, darkModule] at hrow hcol
    dsimp only at hrow hcol
    omega
  · rfl

/-- The positions of format and version information hold Format modules (R224, R225). -/
theorem provAt_builtGrid_infoPosition {v : Nat} (h1 : 1 ≤ v) (h40 : v ≤ 40) {p : Nat × Nat}
    (hp : p ∈ formatPositions (sideOf v) ++ versionPositions v (sideOf v)) :
    provAt (builtGrid v (sideOf v)) p = some .format := by
  have hside : sideOf v = 4 * v + 17 := rfl
  have hpos := (List.mem_append.1 hp).imp (formatPositions_bounds (by omega) p) (versionPositions_bounds (by omega) p)
  obtain ⟨q, hq, rfl⟩ := provAt_builtGrid_of_stamps (v := v) (· = .format) (r := p.1) (c := p.2) (by omega) (by omega)
    ⟨reservation p, mem_allStamps.2 (.inr (.inr (.inr (.inr ⟨p, hp, rfl⟩)))), rfl, rfl⟩
    (fun st hst hrow hcol => stamp_at_infoPosition h1 h40 hp hst hrow hcol)
  exact hq

/-! ### The number of Data modules (R229) -/

/-- The built matrix has RAWMOD Data modules (R133, R229). -/
theorem rawmod_eq_dataCount {v : Nat} (h1 : 1 ≤ v) (h40 : v ≤ 40) :
    rawmod v = some (dataCount (builtGrid v (sideOf v))) := by
  have hclaim : (rawmod v).map (· + claimCount (sideOf v) (allStamps v (sideOf v))) = some (sideOf v * sideOf v) := by
    by_cases h20 : v ≤ 20
    · exact claimCount_rawmod_low v (List.mem_range'_1.2 ⟨h1, by omega⟩)
    · exact claimCount_rawmod_high v (List.mem_range'_1.2 ⟨by omega, by omega⟩)
  obtain ⟨raw, hraw, hsum⟩ := Option.map_eq_some_iff.1 hclaim
  have hcount := dataCount_builtGrid v (sideOf v)
  rw [hraw]
  exact congrArg some (Nat.add_right_cancel (hsum.trans hcount.symm))

end Sys2Proof.Machine
end

section
/-! SUPPORT. Every command keeps registers and buffers in agreement, and raises no internal fault (R52, R79, R306, R307): one
lemma for each stage command, from which `Consistent` is a step invariant. -/

namespace Sys2Proof.Machine

/-- In a state of stage 0 with all result registers 0 no buffer is valid, so there is nothing to agree on (R24). -/
theorem Consistent.of_invalidated {s : State} (hs : Invalidated s) (hm : Memory.wf s.mem = true)
    (hfault : s.errcode ≠ .internalLengthFault ∧ s.errcode ≠ .internalTableFault) : Consistent s := by
  have code : s.stage.code = 0 := by rw [hs.1]; rfl
  exact {
    toInv := .of_invalidated hs hm
    segmented := fun h => absurd h (by omega)
    versioned := fun h => absurd h (by omega)
    packed := fun h => absurd h (by omega)
    coded := fun h => absurd h (by omega)
    built := fun h => absurd h (by omega)
    function_kept := fun h => absurd h (by omega)
    no_internal_fault := hfault }

theorem consistent_raise {s : State} {e : ErrCode} (op : Byte) (hs : Consistent s) (hlength : e ≠ .internalLengthFault)
    (htable : e ≠ .internalTableFault) : Consistent (raise e op s) :=
  .of_invalidated (invalidated_raise ..) hs.memory ⟨hlength, htable⟩

/-- TEXT is what the host wrote above RSIN (R40, R46). -/
theorem textSlice_congr {s t : State} (hmem : ∀ a, textBase ≤ a → Memory.load t.mem a = Memory.load s.mem a)
    (hresets : t.resets = s.resets) (start n : Nat) : textSlice t start n = textSlice s start n :=
  List.map_congr_left fun k _ => by rw [textAt, textAt, hmem _ (Nat.le_add_right ..), hresets]

/-! ### SEGMENT and VSELECT -/

theorem traceBack_length (fuel : Nat) (back : List Candidate) (acc : List Segment) :
    (traceBack fuel back acc).length ≤ fuel + acc.length := by
  induction fuel generalizing back acc with
  | zero => simp [traceBack]
  | succ fuel ih =>
    cases back with
    | nil => simp [traceBack]
    | cons c back =>
      rw [traceBack]
      refine (ih _ _).trans ?_
      rw [List.length_cons]
      omega

/-- There are no more segments than characters, but for the one of the empty text (R116, R118). -/
theorem segmentText_length (vs : Nat) (text : List Byte) : (segmentText vs text).length ≤ max 1 text.length := by
  cases text with
  | nil => simp [segmentText]
  | cons ch rest =>
    have := traceBack_length (ch :: rest).length (forwardPass vs (ch :: rest) 0 [] []) []
    rw [List.length_nil] at this
    rw [segmentText]
    omega

theorem consistent_runSegment {s : State} (hs : Consistent s) (hok : s.errcode = .noError) : Consistent (runSegment s) := by
  have inv := inv_runSegment hs.toInv hok
  rcases runSegment_cases s with ⟨-, h⟩ | ⟨-, -, h⟩ | ⟨-, htlen, -, list, hlist, h⟩ <;> rw [h] at inv ⊢
  · exact consistent_raise _ hs nofun nofun
  · exact consistent_raise _ hs nofun nofun
  · have hlen : list.length < 2 ^ 14 := by
      have := segmentText_length (segmentationVersion s) (textSlice s 0 s.tlen.toNat)
      rw [← hlist, textSlice_length] at this
      omega
    exact {
      toInv := inv
      segmented := fun _ => ⟨by rw [BitVec.toNat_ofNat, Nat.mod_eq_of_lt hlen], hlist⟩
      versioned := fun h => absurd h (by simp [Stage.code])
      packed := fun h => absurd h (by simp [Stage.code])
      coded := fun h => absurd h (by simp [Stage.code])
      built := fun h => absurd h (by simp [Stage.code])
      function_kept := fun h => absurd h (by simp [Stage.code])
      no_internal_fault := hs.no_internal_fault }

/-- The segments that the commands read are those stored (R41). -/
theorem segments_eq_segt {s : State} (h : s.segt.length = s.nseg.toNat) : segments s = s.segt :=
  List.ext_getElem (by simp [segments, h]) fun q _ hq => by simp [segments, hq]

theorem consistent_runVselect {s : State} (hs : Consistent s) : Consistent (runVselect s) := by
  have inv := inv_runVselect hs.toInv
  rcases runVselect_cases s with ⟨-, h⟩ | ⟨-, -, h⟩ | ⟨-, -, -, -, h⟩ | ⟨-, -, -, h⟩ | ⟨h1, -, v, hfit, -, h⟩ <;>
    rw [h] at inv ⊢
  · exact consistent_raise _ hs nofun nofun
  · exact consistent_raise _ hs nofun nofun
  · exact consistent_raise _ hs nofun nofun
  · exact consistent_raise _ hs nofun nofun
  · obtain ⟨t, total, bits, ht, htotal, hbits, hle, haccept⟩ := acceptVersion_of_fits hfit
    obtain ⟨hver, -, hbl, -, -, -⟩ := accepted_registers ht htotal hle
    have hseg := hs.segmented (by rw [h1]; decide)
    rw [segments_eq_segt hseg.1] at hbits
    rw [haccept] at inv ⊢
    exact {
      toInv := inv
      segmented := fun _ => hseg
      versioned := fun _ => by dsimp only; rw [hver, hbl, hbits]
      packed := fun h => absurd h (by simp [Stage.code])
      coded := fun h => absurd h (by simp [Stage.code])
      built := fun h => absurd h (by simp [Stage.code])
      function_kept := fun h => absurd h (by simp [Stage.code])
      no_internal_fault := hs.no_internal_fault }

/-! ### PACK and RSENC -/

/-- The bits of one segment are as many as R136 says. -/
theorem emitSegment_length_of_segmentBits {s : State} {v bits : Nat} {g : Segment} (h : segmentBits v g = some bits) :
    (emitSegment s v g).length = bits := by
  rw [segmentBits] at h
  split at h <;> cases h
  exact emitSegment_length s v g

/-- The bits of a segment list are as many as R136 requires. -/
theorem emitSegments_length {s : State} {v : Nat} (list : List Segment) {bits : Nat} (h : required v list = some bits) :
    (list.flatMap (emitSegment s v)).length = bits := by
  induction list generalizing bits with
  | nil => cases h; rfl
  | cons g rest ih =>
    rw [required] at h
    split at h
    case h_1 n m hg hrest =>
      cases h
      rw [List.flatMap_cons, List.length_append, ih hrest, emitSegment_length_of_segmentBits hg]
    case h_2 => cases h

/-- PACK's bits are BITLEN many and fit the capacity (R138, R160). -/
theorem Consistent.segmentStream_length {s : State} (hs : Consistent s) (h2 : 2 ≤ s.stage.code) :
    (segmentStream s).length = s.bitlen.toNat ∧ s.bitlen.toNat ≤ 8 * s.dlen.toNat := by
  obtain ⟨-, -, -, hle⟩ := hs.version h2
  rw [segmentStream, segments_eq_segt (hs.segmented (by omega)).1]
  exact ⟨emitSegments_length s.segt (hs.versioned h2), hle⟩

theorem consistent_runPack {s : State} (hs : Consistent s) : Consistent (runPack s) := by
  have inv := inv_runPack hs.toInv
  rcases runPack_cases s with ⟨-, h⟩ | ⟨h2, hfault, h⟩ | ⟨h2, -, -, hfull, h⟩ <;> rw [h] at inv ⊢
  · exact consistent_raise _ hs nofun nofun
  · obtain ⟨hlen, hle⟩ := hs.segmentStream_length (by rw [h2]; decide)
    have hfull := completeStream_length s.dlen.toNat (segmentStream s) (by omega)
    omega
  · have code : s.stage.code = 2 := by rw [h2]; rfl
    exact {
      toInv := inv
      segmented := fun _ => hs.segmented (by omega)
      versioned := fun _ => hs.versioned (by omega)
      packed := fun _ => by rw [cutBytes_length, hfull, Nat.mul_div_cancel_left _ (by decide)]
      coded := fun h => absurd h (by simp [Stage.code])
      built := fun h => absurd h (by simp [Stage.code])
      function_kept := fun h => absurd h (by simp [Stage.code])
      no_internal_fault := hs.no_internal_fault }

theorem consistent_runRsenc {s : State} (hs : Consistent s) : Consistent (runRsenc s) := by
  have inv := inv_runRsenc hs.toInv
  have table : s.stage = .packed → _ := fun h3 => hs.table (by rw [h3]; decide)
  rcases runRsenc_cases s with ⟨-, h⟩ | ⟨h3, hnone, h⟩ |
      ⟨h3, t, data, ecc, stream, ht, rfl, rfl, hstream, ⟨hfault, h⟩ | ⟨-, -, -, hlen, h⟩⟩ <;> rw [h] at inv ⊢
  · exact consistent_raise _ hs nofun nofun
  · obtain ⟨t, ht, -⟩ := table h3
    cases hnone.symm.trans ht
  · obtain ⟨t', ht', hdcap, hclen, hnblk⟩ := table h3
    cases ht.symm.trans ht'
    have htotal : t.dcap + t.nblk * t.e = s.clen.toNat := Option.some.inj ((blktab_total ht).symm.trans hclen)
    have hlen := interleave_length ht (dataCodewords s) (by simp [dataCodewords, hdcap])
    rw [← hstream] at hlen
    omega
  · have code : s.stage.code = 3 := by rw [h3]; rfl
    exact {
      toInv := inv
      segmented := fun _ => hs.segmented (by omega)
      versioned := fun _ => hs.versioned (by omega)
      packed := fun _ => hs.packed (by omega)
      coded := fun _ => hlen
      built := fun h => absurd h (by simp [Stage.code])
      function_kept := fun h => absurd h (by simp [Stage.code])
      no_internal_fault := hs.no_internal_fault }

/-! ### MBUILD to FORMAT -/

/-- VER and SIDE from stage 2 on (R30, R31, R52). -/
theorem Inv.side_eq {s : State} (hs : Inv s) (h2 : 2 ≤ s.stage.code) :
    1 ≤ s.ver.toNat ∧ s.ver.toNat ≤ 40 ∧ s.side.toNat = sideOf s.ver.toNat := by
  obtain ⟨h1, h40, hside, -⟩ := hs.version h2
  exact ⟨h1, h40, hside⟩

theorem consistent_runMbuild {s : State} (hs : Consistent s) : Consistent (runMbuild s) := by
  have inv := inv_runMbuild hs.toInv
  have version : s.stage = .coded → _ := fun h4 => hs.side_eq (by rw [h4]; decide)
  rcases runMbuild_cases s with ⟨-, h⟩ | ⟨h4, hfault, h⟩ | ⟨h4, -, hfault, h⟩ | ⟨h4, -, -, h⟩ <;> rw [h] at inv ⊢
  · exact consistent_raise _ hs nofun nofun
  · obtain ⟨h1, h40, hside⟩ := version h4
    rcases hfault with hnone | hne
    · exact absurd ((rawmod_eq_dataCount h1 h40).symm.trans hnone) (Option.some_ne_none _)
    · exact absurd hside hne
  · obtain ⟨h1, h40, hside⟩ := version h4
    rw [hside] at hfault
    exact absurd (rawmod_eq_dataCount h1 h40).symm hfault
  · have code : s.stage.code = 4 := by rw [h4]; rfl
    exact {
      toInv := inv
      segmented := fun _ => hs.segmented (by omega)
      versioned := fun _ => hs.versioned (by omega)
      packed := fun _ => hs.packed (by omega)
      coded := fun _ => hs.coded (by omega)
      built := fun _ => by dsimp only
      function_kept := fun _ _ _ _ hm _ => by dsimp only at hm ⊢; exact hm
      no_internal_fault := hs.no_internal_fault }

/-- The matrix has its size once it is built (R45, R215). -/
theorem Consistent.square {s : State} (hs : Consistent s) (h5 : 5 ≤ s.stage.code) : Square s.modules s.side.toNat :=
  (square_builtGrid ..).of_provenances (hs.built h5)

/-- Recolouring modules that are not Function keeps the agreement (R234, R247, R270). -/
theorem Consistent.recolour {s : State} (hs : Consistent s) (h5 : 5 ≤ s.stage.code) {p : Provenance} (hp : p ≠ .function)
    {g : Grid} (hrec : Recoloured p s.modules g) {stage : Stage} {mask : BitVec 3} {scores : Vector Word 8}
    (inv : Inv { s with stage := stage, modules := g, mask := mask, scores := scores }) :
    Consistent { s with stage := stage, modules := g, mask := mask, scores := scores } where
  toInv := inv
  segmented _ := hs.segmented (by omega)
  versioned _ := hs.versioned (by omega)
  packed _ := hs.packed (by omega)
  coded _ := hs.coded (by omega)
  built _ := hrec.provenances_eq.trans (hs.built h5)
  function_kept _ r c m hm hf := hrec.kept r c m (hs.function_kept h5 r c m hm hf) (hf ▸ hp.symm)
  no_internal_fault := hs.no_internal_fault

/-- Placement takes all codeword bits and the remainder bits: the traversal meets RAWMOD Data modules (R133, R232, R234). -/
theorem Consistent.placed_count {s : State} (hs : Consistent s) (h5 : 5 ≤ s.stage.code) {remainder : Nat}
    (hrem : rembits s.ver.toNat = some remainder) (bits : List Bool) :
    (placeBits (traversal s.side.toNat) bits s.modules 0).2 = 8 * s.clen.toNat + remainder := by
  obtain ⟨h1, h40, hside⟩ := hs.side_eq (by omega)
  have hn : sideOf s.ver.toNat = 4 * s.ver.toNat + 17 := rfl
  obtain ⟨t, -, -, hclen, -⟩ := hs.table (by omega)
  have hraw := rawmod_eq_dataCount h1 h40
  rw [rembits, hraw, Option.map_some] at hrem
  rw [totcw, hraw, Option.map_some] at hclen
  have hrem := Option.some.inj hrem
  have hclen := Option.some.inj hclen
  rw [(placeBits_spec ..).2, provAt_congr (hs.built h5), hside,
    countP_traversal (square_builtGrid ..) (by omega) (by omega) (provAt_builtGrid_column6 _ (by omega))]
  omega

theorem consistent_runMplace {s : State} (hs : Consistent s) : Consistent (runMplace s) := by
  have inv := inv_runMplace hs.toInv
  rcases runMplace_cases s with ⟨-, h⟩ | ⟨h5, hnone, h⟩ | ⟨h5, remainder, placed, hrem, hplaced, hcase⟩
  · rw [h]
    exact consistent_raise _ hs nofun nofun
  · obtain ⟨h1, h40, -⟩ := hs.side_eq (by rw [h5]; decide)
    rw [rembits, rawmod_eq_dataCount h1 h40] at hnone
    cases hnone
  · have code : 5 ≤ s.stage.code := by rw [h5]; decide
    rw [gridOf_eq_modules (hs.square code)] at hplaced
    subst hplaced
    rcases hcase with ⟨hfault, -⟩ | ⟨-, h⟩
    · exact absurd (hs.placed_count code hrem _) hfault
    · rw [h] at inv ⊢
      exact hs.recolour code (p := .data) nofun (placeBits_spec ..).1 inv

theorem consistent_runMselect {s : State} (hs : Consistent s) : Consistent (runMselect s) := by
  have inv := inv_runMselect hs.toInv
  rcases runMselect_cases s with ⟨-, h⟩ | ⟨h6, scores, w, -, -, h⟩ <;> rw [h] at inv ⊢
  · exact consistent_raise _ hs nofun nofun
  · have code : 5 ≤ s.stage.code := by rw [h6]; decide
    rw [gridOf_eq_modules (hs.square code)] at inv ⊢
    exact hs.recolour code (p := .data) nofun (recoloured_masked s.modules w) inv

/-- FORMAT finds a Format module at every position it writes (R224, R225, R270). -/
theorem writeInformation_recoloured {v : Nat} (h1 : 1 ≤ v) (h40 : v ≤ 40) {g : Grid}
    (hprov : provenances g = provenances (builtGrid v (sideOf v))) (word : Nat) :
    ∃ g', (writeFormatWord word (sideOf v) g).bind (writeVersionWord v (sideOf v)) = some g' ∧ Recoloured .format g g' := by
  have format : ∀ p ∈ formatPositions (sideOf v) ++ versionPositions v (sideOf v), provAt g p = some .format := by
    intro p hp
    rw [provAt_congr hprov, provAt_builtGrid_infoPosition h1 h40 hp]
  obtain ⟨g1, hword, hrec1⟩ := writeInfo_recoloured word 0 (formatPositions1.zip (formatPositions2 (sideOf v))) g
    fun pq hpq => by
      obtain ⟨hp, hq⟩ := List.of_mem_zip hpq
      exact ⟨format _ (by simp [formatPositions, hp]), format _ (by simp [formatPositions, hq])⟩
  rw [writeFormatWord, hword, Option.bind_some, writeVersionWord]
  split
  case isTrue h7 =>
    obtain ⟨g2, hversion, hrec2⟩ := writeInfo_recoloured (versionWord v) 0
      ((versionPositions1 (sideOf v)).zip (versionPositions2 (sideOf v))) g1 fun pq hpq => by
        obtain ⟨hp, hq⟩ := List.of_mem_zip hpq
        rw [hrec1.provAt_eq]
        exact ⟨format _ (by simp [versionPositions, h7, hp]), format _ (by simp [versionPositions, h7, hq])⟩
    exact ⟨g2, hversion, hrec1.trans hrec2⟩
  case isFalse => exact ⟨g1, rfl, hrec1⟩

theorem consistent_runFormat {s : State} (hs : Consistent s) : Consistent (runFormat s) := by
  have inv := inv_runFormat hs.toInv
  rcases runFormat_cases s with ⟨-, h⟩ | ⟨h7, written, hwritten, hcase⟩
  · rw [h]
    exact consistent_raise _ hs nofun nofun
  · have code : 5 ≤ s.stage.code := by rw [h7]; decide
    obtain ⟨h1, h40, hside⟩ := hs.side_eq (by omega)
    obtain ⟨g', hsome, hrec⟩ := writeInformation_recoloured h1 h40 (hside ▸ hs.built code)
      (formatWord s.level.toNat s.mask.toNat)
    rw [gridOf_eq_modules (hs.square code), hside, hsome] at hwritten
    subst hwritten
    rcases hcase with ⟨hnone, -⟩ | ⟨g, hg, h⟩
    · cases hnone
    · cases hg
      rw [h] at inv ⊢
      exact hs.recolour code (p := .format) nofun hrec inv

/-! ### Every step -/

theorem consistent_stepInvariant : StepInvariant Consistent where
  host s p r n h := ⟨inv_stepInvariant.host s p r n h.toInv, h.segmented, h.versioned, h.packed, h.coded, h.built,
    h.function_kept, h.no_internal_fault⟩
  reset _ := .of_invalidated (invalidated_invalidate State.reset) rfl ⟨nofun, nofun⟩
  parameter _ _ _ _ h := .of_invalidated (invalidated_invalidate _) h.memory h.no_internal_fault
  text s a bytes h := .of_invalidated (invalidated_invalidate _) (Memory.wf_storeBytes bytes s.mem a h.memory)
    h.no_internal_fault
  rsin s a bytes hend h := by
    have text := textSlice_congr (t := { s with mem := storeBytes s.mem a bytes }) (s := s)
      (fun b hb => load_storeBytes_outside bytes s.mem a b (by omega)) rfl 0 s.tlen.toNat
    refine ⟨inv_stepInvariant.rsin s a bytes hend h.toInv, fun h1 => ?_, h.versioned, h.packed, h.coded, h.built,
      h.function_kept, h.no_internal_fault⟩
    dsimp only
    rw [text]
    exact h.segmented h1
  raised _ _ op hl ht h := consistent_raise op h hl ht
  acknowledged _ h := .of_invalidated (invalidated_invalidate _) h.memory ⟨nofun, nofun⟩
  scratch s g r h := ⟨inv_stepInvariant.scratch s g r h.toInv, h.segmented, h.versioned, h.packed, h.coded, h.built,
    h.function_kept, h.no_internal_fault⟩
  stage := forall_mem_stageCommands.2
    ⟨fun _ h => consistent_runSegment h, fun _ h _ => consistent_runVselect h, fun _ h _ => consistent_runPack h,
     fun _ h _ => consistent_runRsenc h, fun _ h _ => consistent_runMbuild h, fun _ h _ => consistent_runMplace h,
     fun _ h _ => consistent_runMselect h, fun _ h _ => consistent_runFormat h⟩

/-- Settles O51: `Consistent` is a step invariant, as no test for an internal fault fires in a consistent state. -/
theorem stepKeepsConsistency : Obligations.StepKeepsConsistency := fun _ _ => consistent_stepInvariant.step

/-- Settles O49: in the reset state everything is 0 and nothing is stored. -/
theorem resetStateIsConsistent : Obligations.ResetStateIsConsistent :=
  have consistent := Consistent.of_invalidated (invalidated_invalidate State.reset) rfl ⟨nofun, nofun⟩
  ⟨consistent.toInv, consistent⟩

end Sys2Proof.Machine
end

section
/-! SUPPORT. The host port: what a transaction at an address of a given region does (R62, R63, R66). -/

namespace Sys2Proof.Machine

/-! ### Steps and the control commands -/

/-- A write of a word to CMD executes it; the response is OK (R21, R63). -/
theorem transact_writeCmd (w : Word) (s : State) : transact (.writeWord 0 w) s = mapNext (respond .ok) (execute w s) := rfl

/-- Settles O4: the write to CMD passes the gate, and the command's next state gets the response OK. -/
theorem stepRunsTheDecodedCommand : Obligations.StepRunsTheDecodedCommand := by
  intro s w rest i hpending hdecode hgate
  obtain ⟨t, ht⟩ := exec_next i { s with pending := rest }
  refine ⟨t, ht, ?_⟩
  have hexecute : execute w { s with pending := rest } = .next t := by
    have open_gate : (errFlag { s with pending := rest } && !passesGate (.ok i)) = false := by
      rcases hgate with h | rfl | rfl
      · simp [h]
      · exact Bool.and_false _
      · exact Bool.and_false _
    rw [execute, hdecode, open_gate, if_neg Bool.false_ne_true, ← ht]
  rw [step, takeEvent, hpending]
  exact (transact_writeCmd w _).trans (congrArg (mapNext (respond .ok)) hexecute)

/-- Settles O43: both commands are one update of the state. -/
theorem nopAndClearResult : Obligations.NopAndClearResult := fun _ => ⟨rfl, rfl⟩

/-! ### Reset -/

/-- What the windows of the buffers show where nothing is stored at stage 0 (R24, R47). -/
theorem regionByte_of_idle {s : State} (h : s.stage = .idle) {r : Region} (hr : r ∈ [.segt, .dcw, .eccb, .cw, .mod])
    (i : Nat) : regionByte s r i = none := by
  simp only [List.mem_cons, List.not_mem_nil, or_false] at hr
  rcases hr with rfl | rfl | rfl | rfl | rfl <;> exact if_neg (by simp [h, Stage.code])

/-- The window of an address by its region (R64). -/
theorem windowByte_of_region {s : State} {a : Nat} {r : Region} (h : region a = some r) :
    ∃ i, windowByte s a = regionByte s r i := by
  obtain ⟨row, hrow, rfl⟩ := Option.map_eq_some_iff.1 h
  exact ⟨a - row.first, by rw [windowByte, hrow]⟩

/-- Settles O60: after reset nothing is stored and STAGE is 0. -/
theorem resetEventResets : Obligations.ResetEventResets := by
  intro s rest hpending
  refine ⟨hardReset { s with pending := rest }, by rw [step, takeEvent, hpending]; rfl, rfl, fun a ha => ?_⟩
  have window : ∀ r, r ∈ [Region.text, .rsin, .segt, .dcw, .eccb, .cw, .mod] → ∀ i,
      regionByte (hardReset { s with pending := rest }) r i = none := by
    intro r hr i
    rcases List.mem_cons.1 hr with rfl | hr
    · rfl
    · rcases List.mem_cons.1 hr with rfl | hr
      · rfl
      · exact regionByte_of_idle rfl hr i
  obtain ⟨r, hr, hreg⟩ := List.mem_map.1 (show region a ∈ [Region.text, .rsin, .segt, .dcw, .eccb, .cw, .mod].map some from ha)
  obtain ⟨i, hi⟩ := windowByte_of_region (s := hardReset { s with pending := rest }) hreg.symm
  rw [hi, window r hr i]

/-! ### Which accesses are refused (R66) -/

theorem region_eq_some {a : Nat} {r : Region} :
    region a = some r ↔ ∃ row ∈ addressMap, row.region = r ∧ row.first ≤ a ∧ a ≤ row.last := by
  simp only [region, Option.map_eq_some_iff, regionRow_eq_some]
  constructor
  · rintro ⟨row, ⟨hmem, hb⟩, hr⟩
    exact ⟨row, hmem, hr, hb⟩
  · rintro ⟨row, hmem, hr, hb⟩
    exact ⟨row, ⟨hmem, hb⟩, hr⟩

/-- A byte of any window may be accessed (R66). -/
theorem refusedAccess_byte {a : Nat} {r : Region} (h : region a = some r) (hr : r ≠ .reg) :
    refusedAccess a .one = false := by
  simp [refusedAccess, accessBytes, h, hr]

theorem region_word {a : Nat} {r : Region} (h : region a = some r) (h4 : a % 4 = 0) {k : Nat} (hk : k < 4) :
    region (a + k) = some r := by
  obtain ⟨row, hrow, rfl⟩ := Option.map_eq_some_iff.1 h
  rw [region, regionRow_word hrow h4 hk, Option.map_some]

/-- A word at a multiple of 4 of any region may be accessed (R65, R66). -/
theorem refusedAccess_word {a : Nat} {r : Region} (h : region a = some r) (h4 : a % 4 = 0) :
    refusedAccess a .four = false := by
  have hlast := region_word h h4 (k := 3) (by decide)
  simp [refusedAccess, accessBytes, h, h4, hlast]

end Sys2Proof.Machine
end

section
/-! SUPPORT. Reads: registers by their offset (R20, R62), window bytes and words (R47, R68, R73), and the layouts of the result
windows (R69 to R71). -/

namespace Sys2Proof.Machine

/-! ### Registers (R20 to R23, R38) -/

theorem region_reg {a : Nat} (h : a < 0x100) : region a = some .reg :=
  region_eq_some.2 ⟨⟨0x00000, 0x000FF, .reg⟩, by decide, rfl, Nat.zero_le a, Nat.le_of_lt_succ h⟩

/-- A word read in the register block finds the register at the offset. -/
theorem transact_readRegister (s : State) {offset : Nat} (h : offset < 0x100) (h4 : offset % 4 = 0) :
    transact (.read (BitVec.ofNat 20 offset) .four) s = .next { s with response := some (.okWord (readRegister s offset)) } := by
  have hoffset : (BitVec.ofNat 20 offset).toNat = offset := by rw [BitVec.toNat_ofNat]; omega
  rw [transact, hoffset, memRead, refusedAccess_word (region_reg h) h4, region_reg h]
  rfl

/-- A register that is a field zero-extended reads as the field's value. -/
theorem transact_readField {w : Nat} (s : State) (x : BitVec w) {offset : Nat} (h : offset < 0x100) (h4 : offset % 4 = 0)
    (hfield : readRegister s offset = x.zeroExtend 32) :
    transact (.read (BitVec.ofNat 20 offset) .four) s =
      .next { s with response := some (.okWord (BitVec.ofNat 32 x.toNat)) } := by
  rw [transact_readRegister s h h4, hfield, BitVec.ofNat_toNat]

theorem Stage.code_le (stage : Stage) : stage.code ≤ 8 := by cases stage <;> decide

/-- STATUS as a number (R22). -/
theorem statusWord_toNat (s : State) :
    (statusWord s).toNat = s.stage.code + 16 * (errFlag s).toNat + 32 * (finalFlag s).toNat := by
  have := Stage.code_le s.stage
  have := (errFlag s).toNat_le
  have := (finalFlag s).toNat_le
  rw [statusWord, BitVec.toNat_ofNat, Nat.mod_eq_of_lt (by omega)]

/-- The fields of STATUS (R22). -/
theorem statusWord_fields (s : State) :
    (statusWord s).toNat % 16 = s.stage.code ∧ (statusWord s).getLsbD 4 = decide (s.errcode ≠ .noError) ∧
      (statusWord s).getLsbD 5 = decide (s.stage = .final) ∧ (statusWord s).toNat < 64 := by
  have hcode := Stage.code_le s.stage
  have herr : errFlag s = decide (s.errcode ≠ .noError) := rfl
  have hfinal : finalFlag s = decide (s.stage = .final) := rfl
  rw [BitVec.getLsbD, BitVec.getLsbD, statusWord_toNat, ← herr, ← hfinal]
  simp only [Nat.testBit_eq_decide_div_mod_eq]
  cases errFlag s <;> cases finalFlag s <;> simp <;> omega

theorem errinfoWord_toNat (s : State) : (errinfoWord s).toNat = s.errinfo.op.toNat + 256 * s.errinfo.stage.code := by
  have := Stage.code_le s.errinfo.stage
  rw [errinfoWord, BitVec.toNat_ofNat, Nat.mod_eq_of_lt (by omega)]

theorem readRegister_score (s : State) (m : Fin 8) : readRegister s (0x40 + 4 * m.val) = s.scores[m] := by
  fin_cases m <;> rfl

/-- Settles O55: each offset selects its register, and STATUS and ERRINFO lose nothing in 32 bits. -/
theorem registerReads : Obligations.RegisterReads := by
  intro s
  obtain ⟨hstage, herr, hfinal, hlt⟩ := statusWord_fields s
  refine ⟨statusWord s, errinfoWord s, transact_readRegister s (offset := 0x04) (by decide) (by decide), hstage, herr, hfinal,
    hlt, transact_readRegister s (offset := 0x08) (by decide) (by decide),
    transact_readRegister s (offset := 0x0C) (by decide) (by decide), errinfoWord_toNat s,
    transact_readRegister s (offset := 0x64) (by decide) (by decide),
    transact_readRegister s (offset := 0x00) (by decide) (by decide), ?_, fun m => ?_⟩
  · simp only [List.forall_mem_cons, List.not_mem_nil, false_implies, implies_true, and_true]
    exact ⟨transact_readField s s.level (offset := 0x10) (by decide) (by decide) rfl,
      transact_readField s s.fver (offset := 0x14) (by decide) (by decide) rfl,
      transact_readField s s.tlen (offset := 0x18) (by decide) (by decide) rfl,
      transact_readField s s.ver (offset := 0x20) (by decide) (by decide) rfl,
      transact_readField s s.side (offset := 0x24) (by decide) (by decide) rfl,
      transact_readField s s.mask (offset := 0x28) (by decide) (by decide) rfl,
      transact_readField s s.nseg (offset := 0x2C) (by decide) (by decide) rfl,
      transact_readField s s.bitlen (offset := 0x30) (by decide) (by decide) rfl,
      transact_readField s s.dlen (offset := 0x34) (by decide) (by decide) rfl,
      transact_readField s s.clen (offset := 0x38) (by decide) (by decide) rfl,
      transact_readField s s.nblk (offset := 0x3C) (by decide) (by decide) rfl,
      transact_readField s s.gfres (offset := 0x60) (by decide) (by decide) rfl⟩
  · rw [transact_readRegister s (by omega) (by omega), readRegister_score]

/-! ### Windows (R47, R62, R68, R73) -/

/-- A read changes the response and the number of draws only (R73). -/
theorem memRead_frame (a : Nat) (size : AccessSize) (s : State) :
    ∃ r n, memRead a size s = respond r { s with draws := n } := by
  rw [memRead]
  split
  · exact ⟨_, s.draws, rfl⟩
  · split
    · exact ⟨_, s.draws, rfl⟩
    · exact ⟨_, _, rfl⟩

/-- A read in a window answers the bytes found (R62). -/
theorem memRead_window {a : Nat} {r : Region} (hregion : region a = some r) (hr : r ≠ .reg) {size : AccessSize}
    (hsize : refusedAccess a size = false) (s : State) :
    memRead a size s =
      respond (readResponse (readBytes s ((List.range (accessBytes size)).map (a + ·)) s.draws).1)
        { s with draws := (readBytes s ((List.range (accessBytes size)).map (a + ·)) s.draws).2 } := by
  have hreg : region a ≠ some .reg := by rw [hregion]; simpa using hr
  rw [memRead, hsize, if_neg (by decide), if_neg hreg]

theorem memRead_byte {a : Nat} {r : Region} (hregion : region a = some r) (hr : r ≠ .reg) (s : State) :
    memRead a .one s =
      respond (readResponse (readBytes s [a] s.draws).1) { s with draws := (readBytes s [a] s.draws).2 } :=
  memRead_window hregion hr (refusedAccess_byte hregion hr) s

theorem memRead_word {a : Nat} {r : Region} (hregion : region a = some r) (hr : r ≠ .reg) (h4 : a % 4 = 0) (s : State) :
    memRead a .four s =
      respond (readResponse (readBytes s [a, a + 1, a + 2, a + 3] s.draws).1)
        { s with draws := (readBytes s [a, a + 1, a + 2, a + 3] s.draws).2 } :=
  memRead_window hregion hr (refusedAccess_word hregion h4) s

theorem readBytes_cons_specified {s : State} {a : Nat} {b : Byte} (h : windowByte s a = some b) (rest : List Nat) (n : Nat) :
    readBytes s (a :: rest) n = (b :: (readBytes s rest n).1, (readBytes s rest n).2) := by
  rw [readBytes, h]

theorem readBytes_cons_unspecified {s : State} {a : Nat} (h : windowByte s a = none) (rest : List Nat) (n : Nat) :
    readBytes s (a :: rest) n =
      (Config.freeByte n :: (readBytes s rest (n + 1)).1, (readBytes s rest (n + 1)).2) := by
  rw [readBytes, h]

/-- A specified byte lies in a window, not in the register block (R47, R68). -/
theorem region_of_windowByte {s : State} {a : Nat} {b : Byte} (h : windowByte s a = some b) :
    ∃ r, region a = some r ∧ r ≠ .reg := by
  rw [windowByte] at h
  split at h
  case h_1 row hrow =>
    refine ⟨row.region, by rw [region, hrow, Option.map_some], fun hreg => ?_⟩
    rw [hreg] at h
    cases h
  case h_2 => cases h

/-- The word of a read is the four bytes one after the other, the first the least significant (R68). -/
theorem wordOfBytes_eq_append (b0 b1 b2 b3 : Byte) : wordOfBytes b0 b1 b2 b3 = b3 ++ b2 ++ b1 ++ b0 := by
  refine BitVec.eq_of_toNat_eq ?_
  simp only [wordOfBytes, BitVec.toNat_ofNat, BitVec.toNat_append]
  rw [← Nat.shiftLeft_add_eq_or_of_lt b2.isLt, ← Nat.shiftLeft_add_eq_or_of_lt b1.isLt,
    ← Nat.shiftLeft_add_eq_or_of_lt b0.isLt]
  simp only [Nat.shiftLeft_eq]
  omega

/-- Settles O54: a read finds its bytes one by one, and only an unspecified one advances the draws. -/
theorem readsChangeNothing : Obligations.ReadsChangeNothing := by
  refine ⟨fun a size s u h => ?_, fun a s b hb => ?_, fun a s hmapped hreg hnone => ?_, fun a s b0 b1 b2 b3 h4 h0 h1 h2 h3 => ?_⟩
  · cases h
    obtain ⟨r, n, hread⟩ := memRead_frame a.toNat size s
    rw [hread]
    rfl
  · obtain ⟨r, hregion, hr⟩ := region_of_windowByte hb
    rw [transact, memRead_byte hregion hr, readBytes_cons_specified hb]
    rfl
  · obtain ⟨r, hregion⟩ := Option.ne_none_iff_exists'.1 hmapped
    have hr : r ≠ .reg := fun h => hreg (h ▸ hregion)
    rw [transact, memRead_byte hregion hr, readBytes_cons_unspecified hnone]
    rfl
  · obtain ⟨r, hregion, hr⟩ := region_of_windowByte h0
    rw [transact, memRead_word hregion hr h4, readBytes_cons_specified h0, readBytes_cons_specified h1,
      readBytes_cons_specified h2, readBytes_cons_specified h3, ← wordOfBytes_eq_append]
    rfl

/-! ### The layouts of the result windows (R69 to R71) -/

theorem windowByte_segt (s : State) {q k : Nat} (hq : q < 8192) (hk : k < 4) :
    windowByte s (0x10000 + 4 * q + k) =
      if 1 ≤ s.stage.code ∧ q < s.nseg.toNat then (s.segt[q]?).map fun g => byteOfWord g.entry k else none := by
  have hq4 : (4 * q + k) / 4 = q := by omega
  have hk4 : (4 * q + k) % 4 = k := by omega
  have window := windowByte_of_mem (row := ⟨0x10000, 0x17FFF, .segt⟩) (by decide) s (i := 4 * q + k) (by dsimp only; omega)
  rwa [regionByte, hq4, hk4, ← Nat.add_assoc] at window

theorem windowByte_mod (s : State) {r c : Nat} (hr : r < 256) (hc : c < 256) :
    windowByte s (0x20000 + 256 * r + c) =
      if 5 ≤ s.stage.code ∧ r < s.side.toNat ∧ c < s.side.toNat then (gridAt s.modules r c).map (·.byte) else none := by
  have hr256 : (256 * r + c) / 256 = r := by omega
  have hc256 : (256 * r + c) % 256 = c := by omega
  have window := windowByte_of_mem (row := ⟨0x20000, 0x2FFFF, .mod⟩) (by decide) s (i := 256 * r + c) (by dsimp only; omega)
  rwa [regionByte, hr256, hc256, ← Nat.add_assoc] at window

theorem windowByte_dcw (s : State) {i : Nat} (hi : i < 4096) :
    windowByte s (0x04000 + i) = if 3 ≤ s.stage.code ∧ i < s.dlen.toNat then s.dcw[i]? else none :=
  windowByte_of_mem (row := ⟨0x04000, 0x04FFF, .dcw⟩) (by decide) s (by dsimp only; omega)

theorem windowByte_cw (s : State) {i : Nat} (hi : i < 4096) :
    windowByte s (0x05000 + i) = if 4 ≤ s.stage.code ∧ i < s.clen.toNat then s.cw[i]? else none :=
  windowByte_of_mem (row := ⟨0x05000, 0x05FFF, .cw⟩) (by decide) s (by dsimp only; omega)

theorem windowByte_eccb (s : State) {q i : Nat} (hq : q < 128) (hi : i < 32) :
    windowByte s (0x06000 + 32 * q + i) =
      if 4 ≤ s.stage.code ∧ q < s.nblk.toNat ∧ i < eccOf s then (s.eccb[q]?).bind (·[i]?) else none := by
  have hq32 : (32 * q + i) / 32 = q := by omega
  have hi32 : (32 * q + i) % 32 = i := by omega
  have window := windowByte_of_mem (row := ⟨0x06000, 0x06FFF, .eccb⟩) (by decide) s (i := 32 * q + i) (by dsimp only; omega)
  rwa [regionByte, hq32, hi32, ← Nat.add_assoc] at window

theorem windowByte_rsout (s : State) {i : Nat} (hi : i < 32) :
    windowByte s (0x00400 + i) = some (s.rsout.toList[i]?.getD 0) :=
  windowByte_of_mem (row := ⟨0x00400, 0x0041F, .rsout⟩) (by decide) s (by dsimp only; omega)

/-- E of the table entry (R43). -/
theorem eccOf_eq {s : State} {t : BlkEntry} (h : blktab s.ver.toNat s.level.toNat = some t) : eccOf s = t.e := by
  rw [eccOf, h]

theorem eccOf_le {s : State} {i : Nat} (h : ∀ t, blktab s.ver.toNat s.level.toNat = some t → t.e ≤ i) : eccOf s ≤ i := by
  rw [eccOf]
  split
  case h_1 t ht => exact h t ht
  case h_2 => exact Nat.zero_le i

/-- An ecc codeword's index is below 32 (R134). -/
theorem blktab_e_le {v level : Nat} {t : BlkEntry} (h : blktab v level = some t) : t.e ≤ 30 := by
  have hok := blktab_ok h
  simp only [blkEntryOk, Bool.and_eq_true, decide_eq_true_iff] at hok
  omega

/-- Settles O59: one equation for each window, read inside and outside its extent. -/
theorem resultWindowLayouts : Obligations.ResultWindowLayouts := by
  intro s
  refine ⟨?segt, ?mod, ?dcw, ?cw, ?eccb, ?rsout, ?rsoutZero, ?idle, ?noSegt, ?noDcw, ?noCw, ?noEccb, ?noMod⟩
  case segt =>
    intro q g k hstage hq hq' hg hk
    rw [windowByte_segt s hq' hk, if_pos ⟨hstage, hq⟩, hg]
    rfl
  case mod =>
    intro r c m hstage hr hc hm
    rw [windowByte_mod s (hr.trans s.side.isLt) (hc.trans s.side.isLt), if_pos ⟨hstage, hr, hc⟩, hm]
    rfl
  case dcw =>
    intro i b hstage hi hb
    rw [windowByte_dcw s (hi.trans s.dlen.isLt), if_pos ⟨hstage, hi⟩, hb]
  case cw =>
    intro i b hstage hi hb
    rw [windowByte_cw s (hi.trans s.clen.isLt), if_pos ⟨hstage, hi⟩, hb]
  case eccb =>
    intro t q i row b hstage ht hq hi hrow hb
    have he := blktab_e_le ht
    rw [windowByte_eccb s (hq.trans s.nblk.isLt) (by omega), if_pos ⟨hstage, hq, by rwa [eccOf_eq ht]⟩, hrow, Option.bind_some,
      hb]
  case rsout =>
    intro i
    rw [windowByte_rsout s (by omega)]
    simp
  case rsoutZero =>
    intro i hi
    rw [windowByte_rsout s (by omega), List.getElem?_eq_none (by simp; omega)]
    rfl
  case idle =>
    intro a hidle ha
    obtain ⟨r, hr, hreg⟩ := List.mem_map.1 (show region a ∈ [Region.segt, .dcw, .eccb, .cw, .mod].map some from ha)
    obtain ⟨i, hi⟩ := windowByte_of_region (s := s) hreg.symm
    rw [hi, regionByte_of_idle hidle hr i]
  case noSegt =>
    intro q k hq hk h
    rw [windowByte_segt s hq hk, if_neg (by omega)]
  case noDcw =>
    intro i hi h
    rw [windowByte_dcw s hi, if_neg (by omega)]
  case noCw =>
    intro i hi h
    rw [windowByte_cw s hi, if_neg (by omega)]
  case noEccb =>
    intro q i hq hi h
    have h' : s.stage.code < 4 ∨ s.nblk.toNat ≤ q ∨ eccOf s ≤ i := h.imp_right (Or.imp_right eccOf_le)
    rw [windowByte_eccb s hq hi, if_neg (by omega)]
  case noMod =>
    intro r c hr hc h
    rw [windowByte_mod s hr hc, if_neg (by omega)]

end Sys2Proof.Machine
end

section
/-! SUPPORT. Writes: the parameter registers (R26, R63) and the buffers TEXT and RSIN (R40, R46, R63). -/

namespace Sys2Proof.Machine

/-! ### Parameters -/

/-- A word written in the register block past CMD goes to the register at the offset (R63). -/
theorem transact_writeRegister (s : State) (v : Word) {offset : Nat} (hcmd : offset ≠ 0) (h : offset < 0x100)
    (h4 : offset % 4 = 0) :
    transact (.writeWord (BitVec.ofNat 20 offset) v) s = .next (respond .ok (writeRegister offset v s)) := by
  have hoffset : (BitVec.ofNat 20 offset).toNat = offset := by rw [BitVec.toNat_ofNat]; omega
  rw [transact, hoffset, memWriteWord, refusedAccess_word (region_reg h) h4, region_reg h, if_neg (by decide), if_pos rfl,
    if_neg hcmd]

/-- The low bits of a word, stored in a field and read back, are the word masked (R26). -/
theorem zeroExtend_field_eq_and (v : Word) (w : Nat) :
    (v.extractLsb' 0 w).zeroExtend 32 = v &&& BitVec.ofNat 32 (2 ^ w - 1) := by
  refine BitVec.eq_of_getLsbD_eq fun i hi => ?_
  simp only [BitVec.getLsbD_and, BitVec.getLsbD_ofNat, Nat.testBit_two_pow_sub_one, BitVec.truncate_eq_setWidth,
    BitVec.getLsbD_setWidth, BitVec.getLsbD_extractLsb', Nat.zero_add, hi, decide_true, Bool.true_and]
  exact Bool.and_comm ..

/-- A field that holds the low bits of v reads as v masked (R26). -/
theorem transact_readField_masked {w : Nat} (s : State) (v mask : Word) {offset : Nat} (h : offset < 0x100)
    (h4 : offset % 4 = 0) (hmask : BitVec.ofNat 32 (2 ^ w - 1) = mask)
    (hfield : readRegister s offset = (v.extractLsb' 0 w).zeroExtend 32) :
    transact (.read (BitVec.ofNat 20 offset) .four) s = .next { s with response := some (.okWord (v &&& mask)) } := by
  rw [transact_readRegister s h h4, hfield, zeroExtend_field_eq_and, hmask]

/-- Settles O56: the field stored is the low bits of the word, so it reads back as the word masked. -/
theorem parameterWritesStoreAndInvalidate : Obligations.ParameterWritesStoreAndInvalidate := by
  intro s v
  have field {w : Nat} (hw : w ≤ 32) : v.setWidth w = v.extractLsb' 0 w := BitVec.setWidth_eq_extractLsb' hw
  refine ⟨invalidate { s with level := v.extractLsb' 0 2, response := some .ok },
    invalidate { s with fver := v.extractLsb' 0 6, response := some .ok },
    invalidate { s with tlen := v.extractLsb' 0 14, response := some .ok }, ?_, rfl, ?_, ?_, rfl, ?_, ?_, rfl, ?_⟩
  · rw [← field (by decide)]
    exact transact_writeRegister s v (offset := 0x10) (by decide) (by decide) (by decide)
  · exact transact_readField_masked (w := 2) _ v 0x3 (offset := 0x10) (by decide) (by decide) rfl rfl
  · rw [← field (by decide)]
    exact transact_writeRegister s v (offset := 0x14) (by decide) (by decide) (by decide)
  · exact transact_readField_masked (w := 6) _ v 0x3F (offset := 0x14) (by decide) (by decide) rfl rfl
  · rw [← field (by decide)]
    exact transact_writeRegister s v (offset := 0x18) (by decide) (by decide) (by decide)
  · exact transact_readField_masked (w := 14) _ v 0x3FFF (offset := 0x18) (by decide) (by decide) rfl rfl

/-! ### Buffers -/

/-- The two buffers that the host writes (R40, R46). -/
def HostBuffer (a : Nat) : Prop := region a = some .text ∨ region a = some .rsin

theorem HostBuffer.region {a : Nat} (h : HostBuffer a) : ∃ r, Machine.region a = some r ∧ r ≠ .reg := by
  rcases h with h | h
  · exact ⟨.text, h, nofun⟩
  · exact ⟨.rsin, h, nofun⟩

theorem HostBuffer.word {a : Nat} (h : HostBuffer a) (h4 : a % 4 = 0) {k : Nat} (hk : k < 4) : HostBuffer (a + k) :=
  h.imp (region_word · h4 hk) (region_word · h4 hk)

/-- The rows of the map that TEXT and RSIN are (R64). -/
theorem regionRow_hostBuffer {a : Nat} (h : HostBuffer a) :
    (regionRow a = some ⟨textBase, 0x03FFF, .text⟩ ∧ textBase ≤ a) ∨
    (regionRow a = some ⟨rsinBase, 0x003FF, .rsin⟩ ∧ rsinBase ≤ a) := by
  have rows : ∀ row ∈ addressMap, (row.region = .text → row = ⟨textBase, 0x03FFF, .text⟩) ∧
      (row.region = .rsin → row = ⟨rsinBase, 0x003FF, .rsin⟩) := by decide
  obtain ⟨r, hregion, -⟩ := h.region
  obtain ⟨row, hrow, hreg⟩ := Option.map_eq_some_iff.1 hregion
  obtain ⟨hmem, hlo, -⟩ := regionRow_eq_some.1 hrow
  rw [HostBuffer, hregion, Option.some_inj, Option.some_inj, ← hreg] at h
  rcases h with h | h
  · cases (rows row hmem).1 h
    exact .inl ⟨hrow, hlo⟩
  · cases (rows row hmem).2 h
    exact .inr ⟨hrow, hlo⟩

/-- A byte of TEXT or RSIN is what the memory holds at its port address. -/
theorem windowByte_hostBuffer (s : State) {a : Nat} (h : HostBuffer a) : windowByte s a = Memory.load s.mem a := by
  rcases regionRow_hostBuffer h with ⟨hrow, hlo⟩ | ⟨hrow, hlo⟩ <;>
    simp only [windowByte, hrow, regionByte, Nat.add_sub_cancel' hlo]

/-- The state after bytes are written to TEXT or RSIN (R63). -/
theorem writeWindow_hostBuffer (s : State) {a : Nat} (h : HostBuffer a) (bytes : List Byte) :
    writeWindow a bytes s =
      if region a = some .text then invalidate { s with mem := storeBytes s.mem a bytes }
      else { s with mem := storeBytes s.mem a bytes } := by
  rw [writeWindow]
  rcases h with h | h <;> rw [h] <;> rfl

theorem writeWindow_mem (s : State) {a : Nat} (h : HostBuffer a) (bytes : List Byte) :
    (writeWindow a bytes s).mem = storeBytes s.mem a bytes := by
  rw [writeWindow_hostBuffer s h]
  split <;> rfl

/-- What an accepted write to TEXT or RSIN leaves: its bytes stored, every other byte of the two buffers as before, TEXT
invalidating, nothing else changed (R63). -/
theorem bufferWrite_spec (s : State) {a : Nat} (h : HostBuffer a) (bytes : List Byte) {u : State}
    (hu : u = respond .ok (writeWindow a bytes s)) :
    (∀ k, k < bytes.length → HostBuffer (a + k) → windowByte u (a + k) = bytes[k]?) ∧
    (∀ b, b < a ∨ a + bytes.length ≤ b → HostBuffer b → windowByte u b = windowByte s b) ∧
    u = (if region a = some .text then invalidate { s with mem := u.mem, response := some .ok }
      else { s with mem := u.mem, response := some .ok }) := by
  have hmem : u.mem = storeBytes s.mem a bytes := by rw [hu, respond_mem, writeWindow_mem s h]
  refine ⟨fun k hk hbuffer => ?_, fun b hb hbuffer => ?_, ?_⟩
  · rw [windowByte_hostBuffer u hbuffer, hmem, load_storeBytes_inside bytes s.mem a k hk]
  · rw [windowByte_hostBuffer u hbuffer, windowByte_hostBuffer s hbuffer, hmem,
      load_storeBytes_outside bytes s.mem a b hb]
  · rw [hmem, hu, writeWindow_hostBuffer s h]
    split <;> rfl

/-- Settles O57: an access to TEXT or RSIN is never refused, and its bytes go to the memory at their own addresses. -/
theorem bufferWritesStoreBytes : Obligations.BufferWritesStoreBytes := by
  intro a s h
  obtain ⟨r, hregion, hr⟩ := HostBuffer.region h
  refine ⟨fun v => ?_, fun w h4 => ?_⟩
  · obtain ⟨hinside, houtside, hu⟩ := bufferWrite_spec s h [v] rfl
    refine ⟨_, ?_, hinside 0 Nat.one_pos h, fun b hb => houtside b ?_, hu⟩
    · rw [transact, memWriteByte, refusedAccess_byte hregion hr, if_neg (by decide)]
    · rw [List.length_singleton]
      omega
  · obtain ⟨hinside, houtside, hu⟩ := bufferWrite_spec s h ((List.range 4).map (byteOfWord w)) rfl
    refine ⟨_, ?_, fun k hk => ?_, houtside, hu⟩
    · have hreg : region a.toNat ≠ some .reg := by rw [hregion]; simpa using hr
      rw [transact, memWriteWord, refusedAccess_word hregion h4, if_neg (by decide), if_neg hreg]
    · rw [hinside k hk (HostBuffer.word h h4 hk)]
      simp [hk, byteOfWord]

end Sys2Proof.Machine
end

section
/-! SUPPORT. The tables of R173 against R172: EXP holds the powers of α, LOG their exponents; and the two windows that show
them (R72). -/

namespace Sys2Proof.Machine

/-! ### EXP and LOG (R172, R173) -/

theorem gfExp_congr {i j : Nat} (h : i % 255 = j % 255) : gfExp i = gfExp j := by simp only [gfExp, h]

theorem gfExp_mod (i : Nat) : gfExp (i % 255) = gfExp i := gfExp_congr (Nat.mod_mod i 255)

/-- Each entry of EXP is α times the one before it, the first one α times the last. -/
theorem gfExp_succ_of_lt : ∀ i < 255, gfExp (i + 1) = xtime (gfExp i) := by decide +kernel

theorem gfExp_succ (i : Nat) : gfExp (i + 1) = xtime (gfExp i) := by
  rw [← gfExp_mod i, ← gfExp_succ_of_lt (i % 255) (Nat.mod_lt i (by decide))]
  exact gfExp_congr (Nat.mod_add_mod i 255 1).symm

/-- EXP[i mod 255] is the i-th power of α. -/
theorem gfExp_eq_alphaPower (i : Nat) : gfExp i = alphaPower i := by
  induction i with
  | zero => rfl
  | succ i ih => rw [gfExp_succ, ih, alphaPower]

/-- α has order 255. -/
theorem alphaPower_mod (i : Nat) : alphaPower (i % 255) = alphaPower i := by
  rw [← gfExp_eq_alphaPower, gfExp_mod, gfExp_eq_alphaPower]

/-- LOG[a] is an exponent 0..254 at which EXP holds a, for every byte a but 0. -/
theorem gfLog_spec : ∀ a : Byte, a ≠ 0 → ∃ l ∈ gfLog a, l ≤ 254 ∧ gfExp l = a := by decide +kernel

/-! ### The windows (R72) -/

theorem windowByte_gfexp (s : State) {i : Nat} (hi : i < 256) : windowByte s (0x00100 + i) = some (gfExp i) :=
  windowByte_of_mem (row := ⟨0x00100, 0x001FF, .gfexp⟩) (by decide) s (by dsimp only; omega)

theorem windowByte_gflog (s : State) {i : Nat} (hi : i < 256) : windowByte s (0x00200 + i) = some (gflogByte i) :=
  windowByte_of_mem (row := ⟨0x00200, 0x002FF, .gflog⟩) (by decide) s (by dsimp only; omega)

theorem gflogByte_of_gfLog {i l : Nat} (h : gfLog (BitVec.ofNat 8 i) = some l) : gflogByte i = BitVec.ofNat 8 l := by
  rw [gflogByte, h]

/-- Settles O58: both windows are constant, EXP holds the powers of α, and LOG inverts it. -/
theorem gfWindowsShowTheTables : Obligations.GfWindowsShowTheTables := by
  intro s i hi
  refine ⟨?_, fun h0 => ?_, fun h0 => ?_⟩
  · rw [windowByte_gfexp s hi, gfExp_eq_alphaPower, alphaPower_mod]
  · rw [windowByte_gflog s hi, h0]
    rfl
  · have hne : BitVec.ofNat 8 i ≠ 0 := by bv_omega
    obtain ⟨l, hlog, hl, hexp⟩ := gfLog_spec _ hne
    exact ⟨l, hl, by rw [← gfExp_eq_alphaPower, hexp], by rw [windowByte_gflog s hi, gflogByte_of_gfLog hlog]⟩

end Sys2Proof.Machine
end

section
/-! SUPPORT. The accesses that the port refuses, and that it answers ERR to no other (R66); the writes it ignores (R63, R67). -/

namespace Sys2Proof.Machine

/-! ### Refused accesses (R66) -/

theorem refusedAccess_one_iff {a : Nat} : refusedAccess a .one = true ↔ region a = none ∨ region a = some .reg := by
  simp [refusedAccess, accessBytes]

/-- No word at a multiple of 4 crosses the end of a region (R65), so its first byte decides. -/
theorem refusedAccess_four_iff {a : Nat} : refusedAccess a .four = true ↔ a % 4 ≠ 0 ∨ region a = none := by
  by_cases h4 : a % 4 = 0
  · cases h : region a with
    | none => simp [refusedAccess, h]
    | some r => simp [refusedAccess_word h h4, h4]
  · simp [refusedAccess, h4]

/-- An aligned word with an unmapped byte has an unmapped first byte. -/
theorem exists_unmapped_word_iff {a : Nat} (h4 : a % 4 = 0) :
    (∃ k, k < 4 ∧ region (a + k) = none) ↔ region a = none := by
  refine ⟨fun ⟨k, hk, hnone⟩ => ?_, fun h => ⟨0, by decide, h⟩⟩
  rcases h : region a with _ | r
  · rfl
  · rw [region_word h h4 hk] at hnone
    cases hnone

/-- The refused accesses are R66's three cases. -/
theorem refusedAccess_iff {a : Nat} {size : AccessSize} :
    refusedAccess a size = true ↔
      (accessBytes size = 4 ∧ a % 4 ≠ 0) ∨ (∃ k, k < accessBytes size ∧ region (a + k) = none) ∨
      (accessBytes size = 1 ∧ region a = some .reg) := by
  cases size with
  | one => simp [refusedAccess_one_iff, accessBytes]
  | four =>
    by_cases h4 : a % 4 = 0
    · simp [refusedAccess_four_iff, accessBytes, exists_unmapped_word_iff h4, h4]
    · simp [refusedAccess_four_iff, accessBytes, h4]

/-! ### The response of a transaction (R60, R62, R63) -/

/-- The size of a transaction's access (R60). -/
def transactionSize : Transaction → AccessSize
  | .read _ size => size
  | .writeByte _ _ => .one
  | .writeWord _ _ => .four

theorem accessBytes_transactionSize (t : Transaction) : accessBytes (transactionSize t) = transactionBytes t := by
  cases t <;> rfl

theorem transact_of_refused {t : Transaction} (h : refusedAccess (transactionAddress t) (transactionSize t) = true)
    (s : State) : transact t s = .next (respond .err s) := by
  cases t with
  | read a size => exact congrArg Host.Outcome.next (if_pos h)
  | writeByte a v => exact if_pos h
  | writeWord a v => exact if_pos h

theorem readBytes_length (s : State) (addresses : List Nat) (n : Nat) :
    (readBytes s addresses n).1.length = addresses.length := by
  induction addresses generalizing n with
  | nil => rfl
  | cons a rest ih =>
    cases h : windowByte s a with
    | none => simp [readBytes_cons_unspecified h, ih]
    | some b => simp [readBytes_cons_specified h, ih]

/-- The bytes of an access make a response that is not ERR. -/
theorem readResponse_ne_err {bytes : List Byte} {size : AccessSize} (h : bytes.length = accessBytes size) :
    readResponse bytes ≠ .err := by
  cases size with
  | one =>
    obtain ⟨b, rfl⟩ := List.length_eq_one_iff.1 h
    exact nofun
  | four =>
    obtain ⟨b0, b1, b2, b3, rfl⟩ := List.length_eq_four.1 h
    exact nofun

theorem mapped_of_accepted {a : Nat} {size : AccessSize} (h : refusedAccess a size = false) : ∃ r, region a = some r := by
  refine Option.ne_none_iff_exists'.1 fun hnone => ?_
  simp [refusedAccess, hnone] at h

theorem memRead_response_of_accepted {a : Nat} {size : AccessSize} (h : refusedAccess a size = false) (s : State) :
    (memRead a size s).response ≠ some .err := by
  obtain ⟨r, hregion⟩ := mapped_of_accepted h
  by_cases hr : r = .reg
  · rw [memRead, h, if_neg Bool.false_ne_true, if_pos (hr ▸ hregion)]
    exact nofun
  · rw [memRead_window hregion hr h, respond_response, ne_eq, Option.some_inj]
    exact readResponse_ne_err (size := size) (by simp [readBytes_length])

theorem transact_response_of_accepted {t : Transaction} {s u : State}
    (h : refusedAccess (transactionAddress t) (transactionSize t) = false) (hu : transact t s = .next u) :
    u.response ≠ some .err := by
  cases t with
  | read a size =>
    cases hu
    exact memRead_response_of_accepted h s
  | writeByte a v =>
    have h1 : refusedAccess a.toNat .one = false := h
    rw [transact, memWriteByte, h1, if_neg Bool.false_ne_true] at hu
    cases hu
    exact nofun
  | writeWord a v =>
    have h4 : refusedAccess a.toNat .four = false := h
    obtain ⟨w, hw⟩ := execute_next v s
    rw [transact, memWriteWord, h4, if_neg Bool.false_ne_true, hw, mapNext] at hu
    split at hu
    · split at hu <;> cases hu <;> exact nofun
    · cases hu
      exact nofun

/-- Settles O52: the refused accesses are the three cases, and no accepted one answers ERR. -/
theorem portErrorsAreThreeCases : Obligations.PortErrorsAreThreeCases := by
  intro t s u hu
  rw [← accessBytes_transactionSize, ← refusedAccess_iff]
  cases h : refusedAccess (transactionAddress t) (transactionSize t) with
  | true =>
    cases (transact_of_refused h s).symm.trans hu
    exact ⟨iff_of_true rfl rfl, fun _ => rfl⟩
  | false =>
    have accepted := transact_response_of_accepted h hu
    exact ⟨iff_of_false accepted Bool.false_ne_true, fun herr => absurd herr accepted⟩

/-! ### Accepted writes to windows (R63) -/

theorem transact_writeByte_window {a : Addr} {r : Region} (hregion : region a.toNat = some r) (hr : r ≠ .reg) (v : Byte)
    (s : State) : transact (.writeByte a v) s = .next (respond .ok (writeWindow a.toNat [v] s)) := by
  rw [transact, memWriteByte, refusedAccess_byte hregion hr, if_neg Bool.false_ne_true]

theorem transact_writeWord_window {a : Addr} {r : Region} (hregion : region a.toNat = some r) (hr : r ≠ .reg)
    (h4 : a.toNat % 4 = 0) (v : Word) (s : State) :
    transact (.writeWord a v) s = .next (respond .ok (writeWindow a.toNat ((List.range 4).map (byteOfWord v)) s)) := by
  have hreg : region a.toNat ≠ some .reg := by rw [hregion]; simpa using hr
  rw [transact, memWriteWord, refusedAccess_word hregion h4, if_neg Bool.false_ne_true, if_neg hreg]

/-! ### Reserved and read-only registers (R20, R67) -/

theorem writeRegister_ignored {offset : Nat} (h : offset ∉ [0x10, 0x14, 0x18]) (v : Word) (s : State) :
    writeRegister offset v s = s := by
  simp only [List.mem_cons, List.not_mem_nil, or_false] at h
  unfold writeRegister
  split
  case h_4 => rfl
  all_goals omega

theorem readRegister_reserved {offset : Nat} (h : offset = 0x1C ∨ 0x68 ≤ offset) (s : State) :
    readRegister s offset = 0 := by
  unfold readRegister
  split
  case h_25 => rfl
  all_goals omega

/-! ### Read-only windows (R63, R64) -/

/-- The windows that the host cannot write (R63). -/
def readOnlyWindows : List Region := [.gfexp, .gflog, .rsout, .dcw, .cw, .eccb, .segt, .mod]

/-- The read-only windows fill these address ranges, some of which hold several of them (R64): an address in none of the
windows would lie outside all of the bounds. -/
theorem region_readOnly {a : Nat}
    (h : (0x00100 ≤ a ∧ a < 0x00300) ∨ (0x00400 ≤ a ∧ a < 0x00420) ∨ (0x04000 ≤ a ∧ a < 0x07000) ∨
      (0x10000 ≤ a ∧ a < 0x18000) ∨ (0x20000 ≤ a ∧ a < 0x30000)) :
    ∃ r ∈ readOnlyWindows, region a = some r := by
  by_contra hnone
  have outside : ∀ row ∈ addressMap, row.region ∈ readOnlyWindows → ¬(row.first ≤ a ∧ a ≤ row.last) :=
    fun row hrow hr hbounds => hnone ⟨row.region, hr, region_eq_some.2 ⟨row, hrow, rfl, hbounds⟩⟩
  simp only [addressMap, readOnlyWindows, List.mem_cons, List.not_mem_nil, or_false, forall_eq_or_imp, forall_eq, reduceCtorEq,
    or_self, or_true, forall_const, IsEmpty.forall_iff, true_and] at outside
  omega

theorem writeWindow_ignored {a : Nat} {r : Region} (hregion : region a = some r) (hr : r ∈ readOnlyWindows)
    (bytes : List Byte) (s : State) : writeWindow a bytes s = s := by
  rw [writeWindow, hregion]
  split
  case h_1 h => cases h; simp [readOnlyWindows] at hr
  case h_2 h => cases h; simp [readOnlyWindows] at hr
  case h_3 => rfl

/-- Settles O53: no register is stored at the offset, and none read; the window written is not TEXT or RSIN. -/
theorem readOnlyLocationsIgnoreWrites : Obligations.ReadOnlyLocationsIgnoreWrites := by
  refine ⟨fun s a ha h4 => ?_, fun s a ha => ?_⟩
  · have haddr : BitVec.ofNat 20 a.toNat = a := BitVec.eq_of_toNat_eq (by simp)
    refine ⟨fun hoffset v => ?_, fun hreserved => ?_⟩
    · rw [← haddr, transact_writeRegister s v (List.ne_of_not_mem_cons hoffset) ha h4,
        writeRegister_ignored (List.not_mem_of_not_mem_cons hoffset)]
      rfl
    · rw [← haddr, transact_readRegister s ha h4, readRegister_reserved hreserved]
  · obtain ⟨r, hr, hregion⟩ := region_readOnly ha
    have hreg : r ≠ .reg := by rintro rfl; simp [readOnlyWindows] at hr
    refine ⟨fun v => ?_, fun h4 v => ?_⟩
    · rw [transact_writeByte_window hregion hreg, writeWindow_ignored hregion hr]
      rfl
    · rw [transact_writeWord_window hregion hreg h4, writeWindow_ignored hregion hr]
      rfl

end Sys2Proof.Machine
end

section
/-! SUPPORT. The command word read field by field: decoding and encoding (R90 to R93). -/

namespace Sys2Proof.Laws

/-! ### The fields of a word (R90) -/

/-- The four fields of R90 make up the word. -/
theorem word_of_fields (w : Word) : zField w ++ bField w ++ aField w ++ opField w = w := by
  have hzb : zField w ++ bField w = w.extractLsb' 16 16 := BitVec.extractLsb'_append_extractLsb'_eq_extractLsb' rfl
  have hzba : w.extractLsb' 16 16 ++ aField w = w.extractLsb' 8 24 := BitVec.extractLsb'_append_extractLsb'_eq_extractLsb' rfl
  have hword : w.extractLsb' 8 24 ++ opField w = w.extractLsb' 0 32 := BitVec.extractLsb'_append_extractLsb'_eq_extractLsb' rfl
  rw [hzb, hzba, hword, BitVec.extractLsb'_eq_self]

@[simp] theorem opField_encode (i : Instr) : opField (encode i) = opcode i := opField_word ..
@[simp] theorem aField_encode (i : Instr) : aField (encode i) = (operandFields i).1 := aField_word ..
@[simp] theorem bField_encode (i : Instr) : bField (encode i) = (operandFields i).2 := bField_word ..
@[simp] theorem zField_encode (i : Instr) : zField (encode i) = 0 := zField_word ..

/-- The command i stands for the opcode and the operands: it has a word, and these are the fields of it. -/
structure StandsFor (i : Instr) (op a b : Byte) : Prop where
  wellFormed : i.WellFormed
  opcode_eq : opcode i = op
  operands_eq : operandFields i = (a, b)

/-- The word of a command is the word with its fields and Z = 0. -/
theorem StandsFor.encode_eq {i : Instr} {w : Word} (h : StandsFor i (opField w) (aField w) (bField w))
    (hz : zField w = 0) : encode i = w := by
  rw [encode, h.operands_eq, h.opcode_eq, ← hz, word_of_fields]

/-! ### The opcode map (R93) -/

/-- The opcodes of the 17 commands. -/
def opcodes : List Byte :=
  [0x00, 0x01, 0x02, 0x10, 0x11, 0x12, 0x13, 0x14, 0x15, 0x16, 0x17, 0x20, 0x21, 0x22, 0x23, 0x28, 0x29]

/-- The opcodes of the commands without operands. -/
def plainOpcodes : List Byte := [0x00, 0x01, 0x02, 0x10, 0x11, 0x12, 0x13, 0x14, 0x15, 0x16, 0x17]

/-- The opcodes of the commands with the operand A only. -/
def oneOperandOpcodes : List Byte := [0x22, 0x23, 0x28]

/-- The opcodes of the commands with both operands. -/
def twoOperandOpcodes : List Byte := [0x20, 0x21, 0x29]

theorem plainOpcodes_listed : ∀ op ∈ plainOpcodes, op ∈ opcodes ∧ op ∉ oneOperandOpcodes := by decide

theorem oneOperandOpcodes_listed : ∀ op ∈ oneOperandOpcodes, op ∈ opcodes ∧ op ∉ plainOpcodes := by decide

theorem twoOperandOpcodes_listed :
    ∀ op ∈ twoOperandOpcodes, op ∈ opcodes ∧ op ∉ plainOpcodes ∧ op ∉ oneOperandOpcodes := by decide

/-- What R93 says of an opcode: no command has it, or a command with no operand, with A only, or with A and B has it, and
stands for the opcode and those operands. -/
inductive OpcodeRow (op : Byte) : Option OperandForm → Prop
  | unlisted (h : op ∉ opcodes) : OpcodeRow op none
  | plain {i : Instr} (listed : op ∈ plainOpcodes) (command : StandsFor i op 0 0) : OpcodeRow op (some (.none i))
  | one {f : Byte → Instr} (listed : op ∈ oneOperandOpcodes) (command : ∀ a, StandsFor (f a) op a 0) :
      OpcodeRow op (some (.a f))
  | two {f : Byte → Byte → Instr} (listed : op ∈ twoOperandOpcodes) (command : ∀ a b, StandsFor (f a b) op a b) :
      OpcodeRow op (some (.ab f))

theorem commandOf_isSome_of_listed : ∀ op ∈ opcodes, (commandOf op).isSome = true := by decide

theorem fitsOperandField_toNat (a : Byte) : fitsOperandField a.toNat = true := decide_eq_true a.isLt

/-- The opcode map has the rows of R93; the cases below are its rows in their order. -/
theorem commandOf_row (op : Byte) : OpcodeRow op (commandOf op) := by
  cases h : commandOf op with
  | none => exact .unlisted fun hop => by simpa [h] using commandOf_isSome_of_listed op hop
  | some form =>
    have op_eq {k : Nat} (hk : op.toNat = k) : op = BitVec.ofNat 8 k := by rw [← hk, BitVec.ofNat_toNat, BitVec.setWidth_eq]
    unfold commandOf at h
    split at h <;> cases h <;> rename_i hop <;> cases op_eq hop
    case h_12 | h_13 => exact .two (by decide) fun _ _ => ⟨rfl, rfl, rfl⟩
    case h_14 | h_16 => exact .one (by decide) fun a => ⟨fitsOperandField_toNat a, rfl, by simp [operandFields]⟩
    case h_15 => exact .one (by decide) fun _ => ⟨rfl, rfl, rfl⟩
    case h_17 =>
      exact .two (by decide) fun a b =>
        ⟨Bool.and_eq_true_iff.2 ⟨fitsOperandField_toNat a, fitsOperandField_toNat b⟩, rfl,
          by simp [operandFields]⟩
    all_goals exact .plain (by decide) ⟨rfl, rfl, rfl⟩

/-! ### Decoding (R92) -/

/-- The words that R94 calls illegal, by their fields. -/
def IllegalFields (w : Word) : Prop :=
  opField w ∉ opcodes ∨ zField w ≠ 0 ∨ (opField w ∈ plainOpcodes ∧ (aField w ≠ 0 ∨ bField w ≠ 0)) ∨
    (opField w ∈ oneOperandOpcodes ∧ bField w ≠ 0)

/-- What decoding says of a word: the word is illegal, or it is legal and the command stands for its fields. -/
inductive Decoded (w : Word) : Except DecodeError Instr → Prop
  | illegal {e : DecodeError} (h : IllegalFields w) : Decoded w (.error e)
  | legal {i : Instr} (h : ¬IllegalFields w) (z : zField w = 0) (command : StandsFor i (opField w) (aField w) (bField w)) :
      Decoded w (.ok i)

theorem decode_decoded (w : Word) : Decoded w (decode w) := by
  have row := commandOf_row (opField w)
  unfold decode
  generalize commandOf (opField w) = entry at row
  cases row with
  | unlisted h => exact .illegal (.inl h)
  | plain listed command =>
    obtain ⟨hop, hone⟩ := plainOpcodes_listed _ listed
    dsimp only
    split_ifs with hz ha hb
    · exact .illegal (.inr (.inl hz))
    · exact .illegal (.inr (.inr (.inl ⟨listed, .inl ha⟩)))
    · exact .illegal (.inr (.inr (.inl ⟨listed, .inr hb⟩)))
    · rw [not_not] at hz ha hb
      exact .legal (by simp [IllegalFields, *]) hz (by rwa [ha, hb])
  | one listed command =>
    obtain ⟨hop, hplain⟩ := oneOperandOpcodes_listed _ listed
    dsimp only
    split_ifs with hz hb
    · exact .illegal (.inr (.inl hz))
    · exact .illegal (.inr (.inr (.inr ⟨listed, hb⟩)))
    · rw [not_not] at hz hb
      exact .legal (by simp [IllegalFields, *]) hz (by rw [hb]; exact command _)
  | two listed command =>
    obtain ⟨hop, hplain, hone⟩ := twoOperandOpcodes_listed _ listed
    dsimp only
    split_ifs with hz
    · exact .illegal (.inr (.inl hz))
    · rw [not_not] at hz
      exact .legal (by simp [IllegalFields, *]) hz (command _ _)

/-- The words that do not decode are those of R94. -/
theorem decode_isError_iff (w : Word) : (∃ e, decode w = .error e) ↔ IllegalFields w := by
  have decoded := decode_decoded w
  generalize decode w = d at decoded
  cases decoded with
  | illegal h => exact iff_of_true ⟨_, rfl⟩ h
  | legal h => exact iff_of_false nofun h

/-- A word that decodes is the word of the well-formed command it decodes to. -/
theorem encode_of_decode {w : Word} {i : Instr} (h : decode w = .ok i) : i.WellFormed ∧ encode i = w := by
  cases h ▸ decode_decoded w with
  | legal legal z command => exact ⟨command.wellFormed, command.encode_eq z⟩

/-- The decoder gives back a command whose numbers fit their fields (R90). -/
theorem decode_encode {i : Instr} (h : i.WellFormed) : decode (encode i) = .ok i := by
  cases i
  case gfmul a b | gfdiv a b | gflog a => simp [decode, commandOf, opcode, operandFields]
  case gfexp n | rsgen n | rsblk k n =>
    simp only [Instr.WellFormed, Instr.wellFormed, fitsOperandField, Bool.and_eq_true, decide_eq_true_eq] at h
    simp [decode, commandOf, opcode, operandFields, h, Nat.mod_eq_of_lt]
  all_goals rfl

/-- Settles O1: decoding reads the fields that encoding writes, and the fields make up the word. -/
theorem decodeAndEncodeAgree : Obligations.DecodeAndEncodeAgree :=
  ⟨fun _ h => decode_encode h, fun _ _ h => encode_of_decode h⟩

/-- Settles O3: the decoder evaluates the nine words. -/
theorem sampleWordsDecode : Obligations.SampleWordsDecode := by
  unfold Obligations.SampleWordsDecode
  decide

end Sys2Proof.Laws
end

section
/-! SUPPORT. Executing a command word: the gate on ERRCODE and the illegal words (R91, R94, R312). -/

namespace Sys2Proof.Machine

open Sys2Proof.Laws

/-- A word that passes the gate runs the command it decodes to (R91, R312). -/
theorem execute_of_decode {w : Word} {i : Instr} (h : decode w = .ok i) {s : State}
    (gate : s.errcode = .noError ∨ i = .clear ∨ i = .encode) : execute w s = exec i s := by
  rcases execute_cases w s with ⟨he, hclosed, -⟩ | ⟨-, ⟨e, herr⟩, -⟩ | ⟨j, hj, -, hexec⟩
  · rw [h] at hclosed
    rcases gate with hs | rfl | rfl
    · exact absurd hs he
    · cases hclosed
    · cases hclosed
  · cases h.symm.trans herr
  · cases h.symm.trans hj
    exact hexec

/-- Settles O2: decoding tests the fields R94 names, and with no error recorded an illegal word raises. -/
theorem illegalWordsRaiseIllegalCommand : Obligations.IllegalWordsRaiseIllegalCommand := by
  refine ⟨decode_isError_iff, fun w s e h hs => ?_⟩
  rcases execute_cases w s with ⟨he, -⟩ | ⟨-, -, hraise⟩ | ⟨i, hi, -⟩
  · exact absurd hs he
  · exact hraise
  · cases h.symm.trans hi

/-- Settles O5: a word that passes the gate decodes to CLEAR or ENCODE, so it is the word of one of them. -/
theorem recordedErrorGatesCommands : Obligations.RecordedErrorGatesCommands := by
  refine ⟨fun s w he hclear hencode => ?_, fun s => ⟨?_, ?_⟩⟩
  · rcases execute_cases w s with ⟨-, -, hkeep⟩ | ⟨hs, -⟩ | ⟨i, hi, hs | rfl | rfl, -⟩
    · exact hkeep
    · exact absurd hs he
    · exact absurd hs he
    · exact absurd (encode_of_decode hi).2.symm hclear
    · exact absurd (encode_of_decode hi).2.symm hencode
  · exact execute_of_decode (i := .clear) rfl (.inr (.inl rfl))
  · exact execute_of_decode (i := .encode) rfl (.inr (.inr rfl))

end Sys2Proof.Machine
end

section
/-! SUPPORT. The choice among the candidates for the last segment (R116, R117): what the Segmenter chooses is the first
candidate in the order of R117. -/

namespace Sys2Proof.Machine

/-- The order of R117 on candidates: cost, then mode ordinal, then the longer segment first. -/
def Candidate.Precedes (c c' : Candidate) : Prop :=
  c.cost < c'.cost ∨
  (c.cost = c'.cost ∧ (c.mode.ordinal < c'.mode.ordinal ∨ (c.mode = c'.mode ∧ c'.count ≤ c.count)))

theorem Candidate.Precedes.refl (c : Candidate) : c.Precedes c := .inr ⟨rfl, .inr ⟨rfl, Nat.le_refl _⟩⟩

theorem Candidate.Precedes.trans {a b c : Candidate} (hab : a.Precedes b) (hbc : b.Precedes c) : a.Precedes c := by
  rcases hab with hlt | ⟨heq, hrank⟩
  · exact .inl (hbc.elim hlt.trans fun h => h.1 ▸ hlt)
  · rcases hbc with hlt' | ⟨heq', hrank'⟩
    · exact .inl (heq ▸ hlt')
    · refine .inr ⟨heq.trans heq', ?_⟩
      rcases hrank with hm | ⟨hm, hk⟩
      · exact .inl (hrank'.elim hm.trans fun h => h.1 ▸ hm)
      · exact hrank'.imp (hm ▸ ·) fun h => ⟨hm.trans h.1, h.2.trans hk⟩

/-- `r` is the best of the candidates in S, or none if S holds of none. -/
def IsBest (S : Candidate → Prop) : Option Candidate → Prop
  | none => ∀ c, ¬S c
  | some c => S c ∧ ∀ c', S c' → c.Precedes c'

theorem IsBest.congr {S T : Candidate → Prop} {r : Option Candidate} (h : IsBest S r) (hST : ∀ c, S c ↔ T c) : IsBest T r :=
  funext (fun c => propext (hST c)) ▸ h

theorem isBest_singleton (c : Candidate) : IsBest (· = c) (some c) := ⟨rfl, fun c' h => h ▸ .refl c'⟩

/-- Taking the better of two bests, where on equal costs every candidate of S precedes every one of T (R117). -/
theorem isBest_preferFirst {S T : Candidate → Prop} {x y : Option Candidate} (hx : IsBest S x) (hy : IsBest T y)
    (tie : ∀ a b, S a → T b → a.cost = b.cost → a.Precedes b) : IsBest (fun c => S c ∨ T c) (preferFirst x y) := by
  match x, y with
  | none, none => exact fun c => not_or.2 ⟨hx c, hy c⟩
  | none, some b => exact ⟨.inr hy.1, fun c' h => h.elim (absurd · (hx c')) (hy.2 c')⟩
  | some a, none => exact ⟨.inl hx.1, fun c' h => h.elim (hx.2 c') (absurd · (hy c'))⟩
  | some a, some b =>
    obtain ⟨ha, hleast⟩ := hx
    obtain ⟨hb, hleast'⟩ := hy
    rw [preferFirst]
    split
    case isTrue hlt => exact ⟨.inr hb, fun c' h => h.elim (fun h => .trans (.inl hlt) (hleast c' h)) (hleast' c')⟩
    case isFalse hle =>
      have hab : a.Precedes b := (Nat.lt_or_eq_of_le (Nat.le_of_not_lt hle)).elim .inl (tie a b ha hb)
      exact ⟨.inl ha, fun c' h => h.elim (hleast c') fun h => hab.trans (hleast' c' h)⟩

/-- A candidate of mode m for a list whose head makes a segment of k characters, and so its entry d one of k + d (R116). -/
def IsModeCandidate (vs : Nat) (m : Mode) (reversed : List (Nat × Byte)) (k : Nat) (c : Candidate) : Prop :=
  ∃ d x, reversed[d]? = some x ∧ (∀ y ∈ reversed.take (d + 1), inSet m y.2 = true) ∧
    c = ⟨m, k + d, x.1 + headerBits m vs + payloadBits m (k + d)⟩

theorem IsModeCandidate.mode_eq {vs : Nat} {m : Mode} {reversed : List (Nat × Byte)} {k : Nat} {c : Candidate}
    (h : IsModeCandidate vs m reversed k c) : c.mode = m := by
  obtain ⟨d, x, -, -, rfl⟩ := h
  rfl

theorem isModeCandidate_cons {vs : Nat} {m : Mode} {best : Nat} {ch : Byte} {older : List (Nat × Byte)} {k : Nat}
    {c : Candidate} : IsModeCandidate vs m ((best, ch) :: older) k c ↔ inSet m ch = true ∧
      (IsModeCandidate vs m older (k + 1) c ∨ c = ⟨m, k, best + headerBits m vs + payloadBits m k⟩) := by
  have hcount (d : Nat) : k + (d + 1) = k + 1 + d := by omega
  constructor
  · rintro ⟨_ | d, x, hx, hset, rfl⟩
    · cases hx
      exact ⟨hset (best, ch) (by simp), .inr rfl⟩
    · obtain ⟨hch, hset⟩ := List.forall_mem_cons.1 hset
      exact ⟨hch, .inl ⟨d, x, hx, hset, by rw [hcount]⟩⟩
  · rintro ⟨hch, ⟨d, x, hx, hset, rfl⟩ | rfl⟩
    · exact ⟨d + 1, x, hx, List.forall_mem_cons.2 ⟨hch, hset⟩, by rw [← hcount]⟩
    · exact ⟨0, (best, ch), rfl, by simpa using hch, rfl⟩

/-- The pass over the starts of one mode picks its best candidate, the longest among equal costs (R117). -/
theorem isBest_bestOfMode (vs : Nat) (m : Mode) (reversed : List (Nat × Byte)) (k : Nat) :
    IsBest (IsModeCandidate vs m reversed k) (bestOfMode vs m reversed k) := by
  induction reversed generalizing k with
  | nil => rintro c ⟨d, x, hx, -⟩; cases hx
  | cons e older ih =>
    obtain ⟨best, ch⟩ := e
    rw [bestOfMode]
    split
    case isFalse hch => exact fun c h => hch (isModeCandidate_cons.1 h).1
    case isTrue hch =>
      refine (isBest_preferFirst (ih (k + 1)) (isBest_singleton _) ?_).congr fun c => by
        rw [isModeCandidate_cons, and_iff_right hch]
      rintro a b ⟨d, x, -, -, rfl⟩ rfl hcost
      exact .inr ⟨hcost, .inr ⟨rfl, by change k ≤ k + 1 + d; omega⟩⟩

theorem isCandidate_iff_exists_mode {vs : Nat} {reversed : List (Nat × Byte)} {c : Candidate} :
    IsCandidate vs reversed c ↔ ∃ m, IsModeCandidate vs m reversed 1 c := by
  constructor
  · rintro ⟨hcount, hset, x, hx, hcost⟩
    have hk : 1 + (c.count - 1) = c.count := by omega
    exact ⟨c.mode, c.count - 1, x, hx, by rwa [Nat.sub_add_cancel hcount], by rw [hk, ← hcost]⟩
  · rintro ⟨m, d, x, hx, hset, rfl⟩
    exact ⟨by simp, by rwa [Nat.add_comm 1 d], x, by simpa using hx, rfl⟩

/-- The three modes in order pick the best candidate of all, the smaller ordinal among equal costs (R117). -/
theorem isBest_bestCandidate (vs : Nat) (reversed : List (Nat × Byte)) :
    IsBest (IsCandidate vs reversed) (bestCandidate vs reversed) := by
  have tie {m m' : Mode} (hm : m.ordinal < m'.ordinal) (a b : Candidate) (ha : IsModeCandidate vs m reversed 1 a)
      (hb : IsModeCandidate vs m' reversed 1 b) (hcost : a.cost = b.cost) : a.Precedes b :=
    .inr ⟨hcost, .inl (by rwa [ha.mode_eq, hb.mode_eq])⟩
  have hbest (m : Mode) := isBest_bestOfMode vs m reversed 1
  have hlater := isBest_preferFirst (hbest .alphanumeric) (hbest .byte) (tie (by decide))
  refine (isBest_preferFirst (hbest .numeric) hlater ?_).congr fun c => ?_
  · exact fun a b ha hb => hb.elim (tie (by decide) a b ha) (tie (by decide) a b ha)
  · rw [isCandidate_iff_exists_mode]
    constructor
    · rintro (h | h | h) <;> exact ⟨_, h⟩
    · rintro ⟨_ | _ | _, h⟩
      exacts [.inl h, .inr (.inl h), .inr (.inr h)]

/-- One Byte character is always a candidate, so a nonempty list has a best one (R116). -/
theorem exists_bestCandidate (vs : Nat) {reversed : List (Nat × Byte)} (hne : reversed ≠ []) :
    ∃ c, bestCandidate vs reversed = some c ∧ IsCandidate vs reversed c ∧
      ∀ c', IsCandidate vs reversed c' → c.Precedes c' := by
  have hbest := isBest_bestCandidate vs reversed
  obtain ⟨x, older, rfl⟩ := List.exists_cons_of_ne_nil hne
  have hbyte : IsCandidate vs (x :: older) ⟨.byte, 1, x.1 + headerBits .byte vs + payloadBits .byte 1⟩ :=
    ⟨Nat.le_refl 1, fun _ _ => rfl, x, rfl, rfl⟩
  match bestCandidate vs (x :: older), hbest with
  | some c, h => exact ⟨c, rfl, h⟩
  | none, h => exact absurd hbyte (h _)

/-- Settles O25: the best candidate exists and precedes all others. -/
theorem tiesPreferSmallerModeThenLongerSegment : Obligations.TiesPreferSmallerModeThenLongerSegment :=
  fun vs _ hne => exists_bestCandidate vs hne

end Sys2Proof.Machine
end

section
/-! SUPPORT. The dynamic programme of R116 as functions of the characters taken in, and its result: the segments read off
backwards are a segmentation of the text, and no segmentation costs less (R115). -/

namespace Sys2Proof.Machine

/-- best[j] of the j characters with the entries `reversed` (R116). -/
def leastCost (vs : Nat) (reversed : List (Nat × Byte)) : Nat := (bestCandidate vs reversed).elim 0 (·.cost)

/-- The entries (best[i], TEXT[i]) that the pass holds after the characters `older`, newest first (R116). -/
def costTable (vs : Nat) : List Byte → List (Nat × Byte)
  | [] => []
  | ch :: older => (leastCost vs (costTable vs older), ch) :: costTable vs older

/-- best[j] after the j characters `older`, newest first (R116). -/
def bestCost (vs : Nat) (older : List Byte) : Nat := leastCost vs (costTable vs older)

/-- The choices back[j], .., back[1] after the j characters `older`, newest first (R116). -/
def choices (vs : Nat) : List Byte → List Candidate
  | [] => []
  | ch :: older => (bestCandidate vs (costTable vs (ch :: older))).toList ++ choices vs older

@[simp] theorem bestCost_nil (vs : Nat) : bestCost vs [] = 0 := rfl

theorem costTable_cons (vs : Nat) (ch : Byte) (older : List Byte) :
    costTable vs (ch :: older) = (bestCost vs older, ch) :: costTable vs older := rfl

theorem map_snd_costTable (vs : Nat) (older : List Byte) : (costTable vs older).map Prod.snd = older := by
  induction older with
  | nil => rfl
  | cons ch older ih => rw [costTable_cons, List.map_cons, ih]

/-- Entry k is the k-th newest character with the least cost of the characters before it. -/
theorem costTable_getElem? (vs : Nat) (older : List Byte) (k : Nat) :
    (costTable vs older)[k]? = older[k]?.map fun ch => (bestCost vs (older.drop (k + 1)), ch) := by
  induction older generalizing k with
  | nil => rfl
  | cons ch older ih =>
    cases k with
    | zero => rfl
    | succ k => exact ih k

/-- The candidates of R116 in terms of the characters alone. -/
theorem isCandidate_costTable_iff {vs : Nat} {older : List Byte} {c : Candidate} :
    IsCandidate vs (costTable vs older) c ↔ 1 ≤ c.count ∧ c.count ≤ older.length ∧
      (∀ ch ∈ older.take c.count, inSet c.mode ch = true) ∧
      c.cost = bestCost vs (older.drop c.count) + headerBits c.mode vs + payloadBits c.mode c.count := by
  have hset : (∀ x ∈ (costTable vs older).take c.count, inSet c.mode x.2 = true) ↔
      ∀ ch ∈ older.take c.count, inSet c.mode ch = true := by
    conv_rhs => rw [← map_snd_costTable vs older, ← List.map_take]
    rw [List.forall_mem_map]
  rw [IsCandidate, hset]
  refine and_congr_right fun hcount => ?_
  rw [and_left_comm]
  refine and_congr_right fun _ => ?_
  rw [costTable_getElem?, Nat.sub_add_cancel hcount]
  constructor
  · rintro ⟨x, hx, hcost⟩
    obtain ⟨ch, hch, rfl⟩ := Option.map_eq_some_iff.1 hx
    obtain ⟨hlt, -⟩ := List.getElem?_eq_some_iff.1 hch
    exact ⟨by omega, hcost⟩
  · rintro ⟨hle, hcost⟩
    exact ⟨_, by rw [List.getElem?_eq_getElem (by omega)]; rfl, hcost⟩

theorem choices_cons (vs : Nat) (ch : Byte) (older : List Byte) :
    ∃ c, bestCandidate vs (costTable vs (ch :: older)) = some c ∧ choices vs (ch :: older) = c :: choices vs older ∧
      c.cost = bestCost vs (ch :: older) ∧ IsCandidate vs (costTable vs (ch :: older)) c := by
  obtain ⟨c, hbest, hc, -⟩ := exists_bestCandidate vs (List.cons_ne_nil (bestCost vs older, ch) (costTable vs older))
  rw [← costTable_cons] at hbest hc
  exact ⟨c, hbest, by rw [choices, hbest]; rfl, by rw [bestCost, leastCost, hbest]; rfl, hc⟩

@[simp] theorem choices_length (vs : Nat) (older : List Byte) : (choices vs older).length = older.length := by
  induction older with
  | nil => rfl
  | cons ch older ih =>
    obtain ⟨c, -, hcons, -⟩ := choices_cons vs ch older
    rw [hcons, List.length_cons, List.length_cons, ih]

theorem choices_drop (vs : Nat) (older : List Byte) (k : Nat) :
    (choices vs older).drop k = choices vs (older.drop k) := by
  induction older generalizing k with
  | nil => simp [choices]
  | cons ch older ih =>
    cases k with
    | zero => rfl
    | succ k =>
      obtain ⟨c, -, hcons, -⟩ := choices_cons vs ch older
      rw [hcons, List.drop_succ_cons, List.drop_succ_cons, ih]

theorem bestCost_le {vs : Nat} {older : List Byte} {c : Candidate} (hc : IsCandidate vs (costTable vs older) c) :
    bestCost vs older ≤ c.cost := by
  have hbest := isBest_bestCandidate vs (costTable vs older)
  rw [bestCost, leastCost]
  match bestCandidate vs (costTable vs older), hbest with
  | some _, h => exact (h.2 c hc).elim Nat.le_of_lt fun h => Nat.le_of_eq h.1
  | none, h => exact absurd hc (h c)

/-- The pass that goes on after the characters `older` makes the choices for the whole text (R116). -/
theorem forwardPass_eq_choices (vs : Nat) (rest older : List Byte) :
    forwardPass vs rest (bestCost vs older) (costTable vs older) (choices vs older) =
      choices vs (rest.reverseAux older) := by
  induction rest generalizing older with
  | nil => rfl
  | cons ch rest ih =>
    obtain ⟨c, hbest, hcons, hcost, -⟩ := choices_cons vs ch older
    rw [costTable_cons] at hbest
    rw [forwardPass]
    simp only [hbest]
    rw [hcost, ← hcons]
    exact ih (ch :: older)

theorem segmentText_eq_traceBack (vs : Nat) {text : List Byte} (hne : text ≠ []) :
    segmentText vs text = traceBack text.length (choices vs text.reverse) [] := by
  obtain ⟨ch, rest, rfl⟩ := List.exists_cons_of_ne_nil hne
  exact congrArg (traceBack _ · []) (forwardPass_eq_choices vs (ch :: rest) [])

@[simp] theorem segmentationCost_nil (vs : Nat) : segmentationCost vs [] = 0 := rfl

theorem segmentationCost_cons (vs : Nat) (g : Segment) (list : List Segment) :
    segmentationCost vs (g :: list) = headerBits g.mode vs + payloadBits g.mode g.count + segmentationCost vs list := rfl

/-- The segment condition of R115, on the k newest of the characters up to the segment's end. -/
theorem inSet_slice_iff {text : List Byte} {m : Mode} {pos k : Nat} (hle : pos + k ≤ text.length) :
    (∀ ch ∈ (text.take (pos + k)).reverse.take k, inSet m ch = true) ↔
      ∀ t, pos ≤ t → t < pos + k → ∃ ch, text[t]? = some ch ∧ inSet m ch = true := by
  have hslice : (text.take (pos + k)).reverse.take k = ((text.drop pos).take k).reverse := by
    rw [List.take_reverse, List.length_take_of_le hle, Nat.add_sub_cancel, List.drop_take, Nat.add_sub_cancel_left]
  simp only [hslice, List.mem_reverse, List.mem_take_iff_getElem, List.getElem_drop, List.length_drop]
  constructor
  · intro h t hpos ht
    obtain ⟨d, rfl⟩ := Nat.exists_eq_add_of_le hpos
    exact ⟨text[pos + d], List.getElem?_eq_getElem (by omega), h _ ⟨d, by omega, rfl⟩⟩
  · rintro h _ ⟨d, hd, rfl⟩
    obtain ⟨ch, hch, hin⟩ := h (pos + d) (by omega) (by omega)
    rwa [(List.getElem?_eq_some_iff.1 hch).2]

theorem drop_reverse_take {text : List Byte} {pos k : Nat} (hle : pos + k ≤ text.length) :
    (text.take (pos + k)).reverse.drop k = (text.take pos).reverse := by
  rw [List.drop_reverse, List.length_take_of_le hle, Nat.add_sub_cancel, List.take_take, Nat.min_eq_left (by omega)]

/-- A candidate for the segment that starts at `pos` meets R115, and its cost comes on top of best[pos]. -/
theorem isCandidate_take_iff {vs : Nat} {text : List Byte} {pos : Nat} {c : Candidate}
    (hle : pos + c.count ≤ text.length) :
    IsCandidate vs (costTable vs (text.take (pos + c.count)).reverse) c ↔
      1 ≤ c.count ∧
      (∀ t, pos ≤ t → t < pos + c.count → ∃ ch, text[t]? = some ch ∧ inSet c.mode ch = true) ∧
      c.cost = bestCost vs (text.take pos).reverse + headerBits c.mode vs + payloadBits c.mode c.count := by
  have hcount : c.count ≤ (text.take (pos + c.count)).reverse.length := by
    rw [List.length_reverse, List.length_take_of_le hle]
    omega
  rw [isCandidate_costTable_iff, inSet_slice_iff hle, drop_reverse_take hle, and_iff_right hcount]

theorem SegmentsFrom.le_length {text : List Byte} {list : List Segment} {pos : Nat} (h : SegmentsFrom text pos list) :
    pos ≤ text.length := by
  induction list generalizing pos with
  | nil => exact Nat.le_of_eq h
  | cons g rest ih =>
    obtain ⟨-, -, -, hrest⟩ := h
    exact (Nat.le_add_right ..).trans (ih hrest)

/-- No way to go on from a position ends cheaper than the pass does (R116). -/
theorem bestCost_le_add_segmentationCost (vs : Nat) (text : List Byte) (list : List Segment) (pos : Nat)
    (h : SegmentsFrom text pos list) :
    bestCost vs text.reverse ≤ bestCost vs (text.take pos).reverse + segmentationCost vs list := by
  induction list generalizing pos with
  | nil => rw [show pos = text.length from h, List.take_length, segmentationCost_nil, Nat.add_zero]
  | cons g rest ih =>
    obtain ⟨-, hcount, hset, hrest⟩ := h
    have hstep : bestCost vs (text.take (pos + g.count)).reverse ≤
        bestCost vs (text.take pos).reverse + headerBits g.mode vs + payloadBits g.mode g.count :=
      bestCost_le ((isCandidate_take_iff (c := ⟨g.mode, g.count, _⟩) hrest.le_length).2 ⟨hcount, hset, rfl⟩)
    have hgo := ih (pos + g.count) hrest
    rw [segmentationCost_cons]
    omega

/-- One step of reading off: the newest choice becomes a segment, and the characters before it are left (R116). -/
theorem traceBack_succ_choices (vs fuel : Nat) {older : List Byte} (acc : List Segment) (hne : older ≠ []) :
    ∃ c, IsCandidate vs (costTable vs older) c ∧ c.cost = bestCost vs older ∧
      traceBack (fuel + 1) (choices vs older) acc =
        traceBack fuel (choices vs (older.drop c.count)) (⟨c.mode, older.length - c.count, c.count⟩ :: acc) := by
  obtain ⟨ch, older, rfl⟩ := List.exists_cons_of_ne_nil hne
  obtain ⟨c, -, hcons, hcost, hc⟩ := choices_cons vs ch older
  refine ⟨c, hc, hcost, ?_⟩
  rw [hcons, traceBack, ← hcons, choices_length, choices_drop]

/-- Reading the choices off backwards from position j puts a segmentation of the first j characters in front (R116). -/
theorem traceBack_choices (vs : Nat) (text : List Byte) (fuel : Nat) {j : Nat} {acc : List Segment} (hfuel : j ≤ fuel)
    (hacc : SegmentsFrom text j acc) :
    SegmentsFrom text 0 (traceBack fuel (choices vs (text.take j).reverse) acc) ∧
      segmentationCost vs (traceBack fuel (choices vs (text.take j).reverse) acc) =
        bestCost vs (text.take j).reverse + segmentationCost vs acc := by
  induction fuel generalizing j acc with
  | zero =>
    obtain rfl := Nat.le_zero.1 hfuel
    exact ⟨hacc, (Nat.zero_add _).symm⟩
  | succ fuel ih =>
    rcases Nat.eq_zero_or_pos j with rfl | hpos
    · exact ⟨hacc, (Nat.zero_add _).symm⟩
    have hj := hacc.le_length
    have hlen : (text.take j).reverse.length = j := by rw [List.length_reverse, List.length_take_of_le hj]
    obtain ⟨c, hc, hcost, htrace⟩ := traceBack_succ_choices vs fuel acc (List.length_pos_iff.1 (hlen ▸ hpos))
    obtain ⟨pos, rfl⟩ : ∃ pos, j = pos + c.count :=
      Nat.exists_eq_add_of_le' (hlen ▸ (isCandidate_costTable_iff.1 hc).2.1)
    rw [hlen, Nat.add_sub_cancel, drop_reverse_take hj] at htrace
    obtain ⟨hcount, hset, hsplit⟩ := (isCandidate_take_iff hj).1 hc
    have hcons : SegmentsFrom text pos (⟨c.mode, pos, c.count⟩ :: acc) := ⟨rfl, hcount, hset, hacc⟩
    obtain ⟨hseg, hsum⟩ := ih (by omega) hcons
    rw [htrace, hsum, segmentationCost_cons, ← hcost, hsplit]
    exact ⟨hseg, by dsimp only; omega⟩

/-- Settles O24: the segments read off cost what the pass ends with, and no segmentation costs less. -/
theorem segmentationCostIsLeast : Obligations.SegmentationCostIsLeast := by
  intro vs text hne
  obtain ⟨hseg, hcost⟩ := traceBack_choices vs text text.length (Nat.le_refl _) (acc := []) rfl
  rw [List.take_length, ← segmentText_eq_traceBack vs hne] at hseg hcost
  refine ⟨hseg, fun list hlist => ?_⟩
  calc segmentationCost vs (segmentText vs text)
    _ = bestCost vs text.reverse := hcost
    _ ≤ bestCost vs (text.take 0).reverse + segmentationCost vs list :=
      bestCost_le_add_segmentationCost vs text list 0 hlist
    _ = segmentationCost vs list := Nat.zero_add _

end Sys2Proof.Machine
end

section
/-! SUPPORT. The command SEGMENT on accepted parameters (R118, R119). -/

namespace Sys2Proof.Machine

theorem exec_segment_of_accepted {s : State} (h0 : s.stage = .idle) (htlen : s.tlen.toNat ≤ 8192)
    (hfver : s.fver.toNat ≤ 40) : exec .segment s = .next { s with
      segt := inputSegments s, nseg := BitVec.ofNat 14 (inputSegments s).length, stage := .segmented } := by
  refine congrArg Host.Outcome.next ?_
  rcases runSegment_cases s with ⟨hne, -⟩ | ⟨-, hlarge, -⟩ | ⟨-, -, -, list, rfl, hrun⟩
  · exact absurd h0 hne
  · omega
  · exact hrun

theorem inputSegments_length_lt {s : State} (htlen : s.tlen.toNat ≤ 8192) : (inputSegments s).length < 2 ^ 14 := by
  have hmax := segmentText_length (segmentationVersion s) (textSlice s 0 s.tlen.toNat)
  rw [textSlice_length] at hmax
  rw [inputSegments]
  omega

/-- The cheapest header is Byte's in the first width class and Alphanumeric's in the others (R118). -/
theorem emptyMode_eq (vs : Nat) : emptyMode vs = if vs ≤ 9 then .byte else .alphanumeric := by
  have hclass : versionClass vs = 0 ∧ vs ≤ 9 ∨ versionClass vs = 1 ∧ ¬vs ≤ 9 ∨ versionClass vs = 2 ∧ ¬vs ≤ 9 := by
    rw [versionClass]
    split_ifs <;> omega
  rcases hclass with ⟨h, hvs⟩ | ⟨h, hvs⟩ | ⟨h, hvs⟩ <;> simp [emptyMode, headerBits, countWidth, h, hvs]

/-- Settles O23: the accepted command writes the segmentation of the text, whose length fits NSEG. -/
theorem segmentResult : Obligations.SegmentResult := by
  intro s h0 hne htlen hfver
  have htext : textSlice s 0 s.tlen.toNat ≠ [] := by
    rw [← List.length_pos_iff, textSlice_length]
    exact Nat.pos_of_ne_zero fun h => hne (BitVec.eq_of_toNat_eq h)
  refine ⟨_, exec_segment_of_accepted h0 htlen hfver, rfl, rfl, ?_, (segmentationCostIsLeast _ _ htext).1⟩
  exact BitVec.toNat_ofNat _ _ |>.trans (Nat.mod_eq_of_lt (inputSegments_length_lt htlen))

/-- Settles O26: the accepted command writes the one segment of the empty text. -/
theorem emptyTextGivesOneEmptySegment : Obligations.EmptyTextGivesOneEmptySegment := by
  intro s h0 htlen hfver
  have hlist : inputSegments s = [⟨if segmentationVersion s ≤ 9 then .byte else .alphanumeric, 0, 0⟩] := by
    rw [inputSegments, htlen, ← emptyMode_eq]
    rfl
  rw [exec_segment_of_accepted h0 (by rw [htlen]; decide) hfver, hlist]
  rfl

end Sys2Proof.Machine
end

section
/-! SUPPORT. The command VSELECT at stage 1 (R138), and why the NOFIT test never decides (R142). -/

namespace Sys2Proof.Machine

theorem version_bounds_of_fits {list : List Segment} {level v : Nat} (h : fits list level v = true) : 1 ≤ v ∧ v ≤ 40 := by
  obtain ⟨-, t, -, ht, -⟩ := (fits_iff ..).1 h
  obtain ⟨h1, h40, -⟩ := blktab_bounds ht
  exact ⟨h1, h40⟩

theorem chosen_iff_of_forced {s : State} {list : List Segment} {v : Nat} (h0 : s.fver ≠ 0) :
    Chosen s list v ↔ v = s.fver.toNat ∧ fits list s.level.toNat v = true := by
  simp only [Chosen, h0, ne_eq, not_false_eq_true, true_and, false_and, or_false, and_comm]

theorem chosen_iff_of_unforced {s : State} {list : List Segment} {v : Nat} (h0 : s.fver = 0) :
    Chosen s list v ↔ leastFit list s.level.toNat = some v := by
  rw [leastFit_eq_some_iff]
  constructor
  · rintro ⟨hfit, ⟨hne, -⟩ | ⟨-, hleast⟩⟩
    · exact absurd h0 hne
    · obtain ⟨h1, h40⟩ := version_bounds_of_fits hfit
      exact ⟨h1, h40, hfit, hleast⟩
  · rintro ⟨-, -, hfit, hleast⟩
    exact ⟨hfit, .inr ⟨h0, hleast⟩⟩

/-- There is a version to choose exactly when the forced version, or some version if none is forced, fits (R138). -/
theorem exists_chosen_iff {s : State} {list : List Segment} :
    (∃ v, Chosen s list v) ↔ ∃ v, (s.fver ≠ 0 → v = s.fver.toNat) ∧ fits list s.level.toNat v = true := by
  by_cases h0 : s.fver = 0
  · simp only [chosen_iff_of_unforced h0, h0, ne_eq, not_true_eq_false, false_implies, true_and,
      ← Option.isSome_iff_exists, leastFit, List.find?_isSome, Config.verMax]
    refine exists_congr fun v => and_iff_right_of_imp fun hfit => ?_
    obtain ⟨h1, h40⟩ := version_bounds_of_fits hfit
    exact List.mem_range'_1.2 ⟨h1, by omega⟩
  · simp only [chosen_iff_of_forced h0, h0, ne_eq, not_false_eq_true, true_implies]

/-- At stage 1, with FVER in range, VSELECT accepts the chosen version, or raises as there is none (R138). -/
theorem runVselect_of_segmented {s : State} (h1 : s.stage = .segmented) (hfver : s.fver.toNat ≤ 40) :
    (∃ v, Chosen s (segments s) v ∧ runVselect s = acceptVersion (segments s) v s) ∨
    ((∀ v, ¬Chosen s (segments s) v) ∧
      runVselect s = raise (if s.fver = 0 then .dataTooLong else .versionTooSmall) 0x11 s) := by
  rcases runVselect_cases s with ⟨hne, -⟩ | ⟨-, hlarge, -⟩ | ⟨-, -, h0, hno, h⟩ | ⟨-, h0, hnone, h⟩ |
      ⟨-, -, v, hfit, hv, h⟩
  · exact absurd h1 hne
  · omega
  · refine .inr ⟨fun v hv => ?_, by rw [h, if_neg h0]⟩
    obtain ⟨rfl, hfit⟩ := (chosen_iff_of_forced h0).1 hv
    exact absurd (hno.symm.trans hfit) nofun
  · refine .inr ⟨fun v hv => ?_, by rw [h, if_pos h0]⟩
    exact absurd (hnone.symm.trans ((chosen_iff_of_unforced h0).1 hv)) nofun
  · refine .inl ⟨v, ?_, h⟩
    rcases hv with ⟨h0, rfl⟩ | ⟨h0, hleast⟩
    · exact (chosen_iff_of_forced h0).2 ⟨rfl, hfit⟩
    · exact (chosen_iff_of_unforced h0).2 hleast

theorem Chosen.unique {s : State} {list : List Segment} {u v : Nat} (hu : Chosen s list u) (hv : Chosen s list v) :
    u = v := by
  by_cases h0 : s.fver = 0
  · exact Option.some.inj (((chosen_iff_of_unforced h0).1 hu).symm.trans ((chosen_iff_of_unforced h0).1 hv))
  · exact ((chosen_iff_of_forced h0).1 hu).1.trans ((chosen_iff_of_forced h0).1 hv).1.symm

/-- Settles O27: VSELECT accepts the chosen version, and every register holds what it is given. -/
theorem vselectResult : Obligations.VselectResult := by
  intro s v h1 hfver hv
  rcases runVselect_of_segmented h1 hfver with ⟨u, hu, hrun⟩ | ⟨hnone, -⟩
  · obtain rfl := hv.unique hu
    obtain ⟨t, total, bits, ht, htotal, hbits, hle, haccept⟩ := acceptVersion_of_fits (s := s) hv.1
    obtain ⟨hver, hside, hbl, hdl, hcl, hnb⟩ := accepted_registers ht htotal hle
    exact ⟨_, t, total, bits, congrArg Host.Outcome.next (hrun.trans haccept), rfl, ht, htotal, hbits, hver, hside, hbl,
      hdl, hcl, hnb⟩
  · exact absurd hv (hnone v)

/-- Settles O28: with no version to choose VSELECT raises, by FVER. -/
theorem vselectErrors : Obligations.VselectErrors := by
  refine ⟨fun s h1 h0 hfver hno => ?_, fun s h1 h0 hno => ?_⟩
  · rcases runVselect_of_segmented h1 hfver with ⟨v, hv, -⟩ | ⟨-, hrun⟩
    · obtain ⟨rfl, hfit⟩ := (chosen_iff_of_forced h0).1 hv
      exact absurd (hno.symm.trans hfit) nofun
    · rw [if_neg h0, raise, h1] at hrun
      exact congrArg Host.Outcome.next hrun
  · rcases runVselect_of_segmented h1 (by rw [h0]; decide) with ⟨v, hv, -⟩ | ⟨-, hrun⟩
    · obtain ⟨h1, h40, hfit, -⟩ := (leastFit_eq_some_iff ..).1 ((chosen_iff_of_unforced h0).1 hv)
      exact absurd ((hno v h1 h40).symm.trans hfit) nofun
    · rw [if_pos h0, raise, h1] at hrun
      exact congrArg Host.Outcome.next hrun

/-! ### NOFIT (R142) -/

/-- NOFIT means that some count does not fit its count indicator (R136). -/
theorem required_eq_none_iff {v : Nat} {list : List Segment} :
    required v list = none ↔ ∃ g ∈ list, 2 ^ countWidth g.mode v ≤ g.count := by
  induction list with
  | nil => simp [required]
  | cons g rest ih =>
    rw [List.exists_mem_cons_iff, ← ih, required, segmentBits]
    split_ifs with hg
    · simp [hg]
    · cases required v rest <;> simp [hg]

/-- The greatest data capacity of a version class in bytes, that of its last version at level L (R134). -/
def classCapacity : Nat → Nat
  | 0 => 232
  | 1 => 1370
  | _ => 2956

theorem blkRows_dcap_le : ∀ v ∈ List.range' 1 40, ∀ level ∈ List.range 4, ∀ t ∈ blktab v level,
    t.dcap ≤ classCapacity (versionClass v) := by decide +kernel

theorem dcap_le_classCapacity {v level : Nat} {t : BlkEntry} (h : blktab v level = some t) :
    t.dcap ≤ classCapacity (versionClass v) := by
  obtain ⟨h1, h40, h4⟩ := (blktab_isSome_iff v level).1 (by rw [h]; rfl)
  exact blkRows_dcap_le v (List.mem_range'_1.2 ⟨h1, by omega⟩) level (List.mem_range.2 h4) t h

/-- One segment whose count does not fit its field overfills every version of the class (R142). -/
theorem classCapacity_lt_of_nofit {m : Mode} {v k : Nat} (hwide : 2 ^ countWidth m v ≤ k) (hk : k ≤ 8192) :
    8 * classCapacity (versionClass v) < 4 + countWidth m v + payloadBits m k := by
  have hnumeric : 10 * (k / 3) ≤ payloadBits .numeric k := Nat.le_add_right ..
  have halpha : 11 * (k / 2) ≤ payloadBits .alphanumeric k := Nat.le_add_right ..
  have hbyte : payloadBits .byte k = 8 * k := rfl
  have hclass : versionClass v = 0 ∨ versionClass v = 1 ∨ versionClass v = 2 := by
    rw [versionClass]
    split_ifs <;> simp
  rcases hclass with h | h | h <;> cases m <;> simp only [countWidth, h, classCapacity] at hwide ⊢ <;> omega

/-- Settles O29: the segment whose count does not fit has more bits than any version of the class has capacity. -/
theorem nofitNeverDecides : Obligations.NofitNeverDecides := by
  intro v level t list ht hcounts hnofit
  obtain ⟨g, hg, hwide⟩ := required_eq_none_iff.1 hnofit
  calc 8 * t.dcap
    _ ≤ 8 * classCapacity (versionClass v) := Nat.mul_le_mul_left 8 (dcap_le_classCapacity ht)
    _ < 4 + countWidth g.mode v + payloadBits g.mode g.count := classCapacity_lt_of_nofit hwide (hcounts g hg)
    _ ≤ (list.map fun g => 4 + countWidth g.mode v + payloadBits g.mode g.count).sum :=
      List.le_sum_of_mem (List.mem_map_of_mem hg)

end Sys2Proof.Machine
end

section
/-! SUPPORT. The modules of the built matrix counted by provenance (R226, R229). -/

namespace Sys2Proof.Machine

theorem provenanceCount_eq_countP (q : Provenance) (g : Grid) :
    provenanceCount q g = g.flatten.countP fun m => m.prov = q := List.countP_flatten.symm

/-- The modules of a square matrix in order, by their positions. -/
theorem Square.flatten_map_some {g : Grid} {n : Nat} (h : Square g n) :
    g.flatten.map some = (List.range n ×ˢ List.range n).map fun p => gridAt g p.1 p.2 := by
  have positions : List.range n ×ˢ List.range n = (List.range n).flatMap fun r => (List.range n).map (Prod.mk r) := rfl
  rw [positions, List.map_flatMap, List.flatMap_def, List.map_flatten]
  refine congrArg List.flatten (List.ext_getElem (by simp [h.1]) fun r hr _ => ?_)
  rw [List.length_map] at hr
  have hrow := h.2 _ (List.getElem_mem hr)
  refine List.ext_getElem (by simp [hrow]) fun c hc _ => ?_
  rw [List.getElem_map, List.length_map] at hc
  simp [gridAt, hr, hc]

/-- The modules of one provenance in a square matrix, counted by position. -/
theorem Square.provenanceCount_eq {g : Grid} {n : Nat} (h : Square g n) (q : Provenance) :
    provenanceCount q g = (List.range n ×ˢ List.range n).countP fun p => provAt g p = some q := by
  have hmap := congrArg (List.countP fun x : Option QrModule => x.map (·.prov) = some q) h.flatten_map_some
  rw [List.countP_map, List.countP_map] at hmap
  rw [provenanceCount_eq_countP]
  simpa [Function.comp_def, provAt] using hmap

/-- Every module has one of the four provenances (R45). -/
theorem Square.sum_provenanceCount {g : Grid} {n : Nat} (h : Square g n) :
    provenanceCount .function g + provenanceCount .format g + provenanceCount .data g +
      provenanceCount .reservedUnused g = n * n := by
  have hsum (l : List QrModule) : l.countP (·.prov = .function) + l.countP (·.prov = .format) +
      l.countP (·.prov = .data) + l.countP (·.prov = .reservedUnused) = l.length := by
    induction l with
    | nil => rfl
    | cons m rest ih =>
      simp only [List.countP_cons, List.length_cons]
      cases hm : m.prov <;> simp <;> omega
  have hlen : g.flatten.length = n * n := by
    rw [List.length_flatten, List.map_congr_left (g := fun _ => n) h.2, List.map_const', List.sum_replicate, h.1,
      smul_eq_mul]
  simp only [provenanceCount_eq_countP, hsum, hlen]

/-- After all stamps a module is stamped or Data (R226). -/
theorem provenanceCount_reservedUnused_builtGrid (v n : Nat) : provenanceCount .reservedUnused (builtGrid v n) = 0 := by
  rw [provenanceCount_eq_countP, List.countP_eq_zero, builtGrid, ← List.map_flatten, List.forall_mem_map]
  intro m _
  rw [claimData]
  split
  case isTrue => simp
  case isFalse h => simpa using h

/-- The stamps of provenance Format are the reservations (R217 to R225). -/
theorem eq_reservation_of_format {v n : Nat} {st : Stamp} (hst : st ∈ allStamps v n) (hformat : st.prov = .format) :
    ∃ p ∈ formatPositions n ++ versionPositions v n, st = reservation p := by
  rcases mem_allStamps.1 hst with ⟨center, -, h⟩ | h | ⟨center, -, h⟩ | rfl | h
  · rcases List.mem_append.1 h with h | h <;> obtain ⟨dr, dc, -, -, h⟩ := mem_squareStamps.1 h
    · cases List.mem_singleton.1 h
      cases hformat
    · split at h
      · cases List.mem_singleton.1 h
        cases hformat
      · cases h
  · obtain ⟨i, -, -, rfl | rfl⟩ := mem_timingStamps.1 h <;> cases hformat
  · obtain ⟨dr, dc, -, -, h⟩ := mem_squareStamps.1 h
    cases List.mem_singleton.1 h
    cases hformat
  · cases hformat
  · exact h

/-- The Format modules are those at the positions of format and version information (R224, R225). -/
theorem provAt_builtGrid_eq_format_iff {v : Nat} (h1 : 1 ≤ v) (h40 : v ≤ 40) {p : Nat × Nat} :
    provAt (builtGrid v (sideOf v)) p = some .format ↔
      p ∈ formatPositions (sideOf v) ++ versionPositions v (sideOf v) := by
  refine ⟨fun h => ?_, provAt_builtGrid_infoPosition h1 h40⟩
  obtain ⟨m, hm, hformat⟩ := provAt_eq_some.1 h
  obtain ⟨hr, hc⟩ := (square_builtGrid ..).at_bounds hm
  rw [gridAt_builtGrid v hr hc, Option.some.injEq] at hm
  subst hm
  split at hformat
  case h_1 st hst =>
    obtain ⟨q, hq, rfl⟩ := eq_reservation_of_format (List.mem_of_find?_eq_some hst) hformat
    have hat : Stamp.isAt p.1 p.2 (reservation q) = true := List.find?_some hst
    obtain ⟨hrow, hcol⟩ := of_decide_eq_true hat
    exact Prod.ext (Int.ofNat.inj hrow) (Int.ofNat.inj hcol) ▸ hq
  case h_2 => cases hformat

theorem nodup_formatPositions {n : Nat} (h : 21 ≤ n) : (formatPositions n).Nodup := by
  simp only [formatPositions, formatPositions1, formatPositions2, List.cons_append, List.nil_append, List.nodup_cons,
    List.mem_cons, List.not_mem_nil, or_false, Prod.mk.injEq, List.nodup_nil, not_false_eq_true, and_true]
  and_intros <;> omega

theorem nodup_versionPositions (v : Nat) {n : Nat} (h : 21 ≤ n) : (versionPositions v n).Nodup := by
  have hblock (f : Nat → Nat × Nat) (hinj : ∀ i j, f i = f j → i / 3 = j / 3 ∧ i % 3 = j % 3) :
      ((List.range 18).map f).Nodup :=
    List.nodup_range.map fun i j hij => by have := hinj i j hij; omega
  rw [versionPositions]
  split
  case isTrue h7 =>
    refine List.nodup_append.2 ⟨hblock _ fun i j hij => ?_, hblock _ fun i j hij => ?_, fun p hp q hq => ?_⟩
    · rw [Prod.mk.injEq] at hij
      omega
    · rw [Prod.mk.injEq] at hij
      omega
    · obtain ⟨i, hi, rfl⟩ := List.mem_map.1 hp
      obtain ⟨j, hj, rfl⟩ := List.mem_map.1 hq
      rw [List.mem_range] at hi hj
      rw [ne_eq, Prod.mk.injEq]
      omega
  case isFalse => exact List.nodup_nil

/-- The positions of format and version information are pairwise different (R224, R225). -/
theorem nodup_infoPositions (v : Nat) {n : Nat} (h : 21 ≤ n) : (formatPositions n ++ versionPositions v n).Nodup := by
  refine List.nodup_append.2 ⟨nodup_formatPositions h, nodup_versionPositions v h, ?_⟩
  rintro p hp q hq rfl
  have := formatPositions_bounds h p hp
  have := versionPositions_bounds h p hq
  omega

theorem length_infoPositions (v n : Nat) :
    (formatPositions n ++ versionPositions v n).length = if v ≤ 6 then 30 else 66 := by
  rw [List.length_append, versionPositions]
  by_cases h7 : 7 ≤ v
  · rw [if_pos h7, if_neg (by omega)]
    rfl
  · rw [if_neg h7, if_pos (by omega)]
    rfl

/-- The built matrix has a Format module for each position of format and version information (R224, R225). -/
theorem provenanceCount_format_builtGrid {v : Nat} (h1 : 1 ≤ v) (h40 : v ≤ 40) :
    provenanceCount .format (builtGrid v (sideOf v)) = if v ≤ 6 then 30 else 66 := by
  rw [(square_builtGrid ..).provenanceCount_eq, ← length_infoPositions v (sideOf v), List.countP_eq_length_filter]
  refine (List.perm_ext_iff_of_nodup ((List.nodup_range.product List.nodup_range).filter _)
    (nodup_infoPositions v (by rw [sideOf]; omega))).2 (fun p => ?_) |>.length_eq
  rw [List.mem_filter, decide_eq_true_iff, provAt_builtGrid_eq_format_iff h1 h40, and_iff_right_of_imp fun hp => ?_]
  obtain ⟨m, hm, -⟩ := provAt_eq_some.1 (provAt_builtGrid_infoPosition h1 h40 hp)
  obtain ⟨hr, hc⟩ := (square_builtGrid ..).at_bounds hm
  exact List.mem_product.2 ⟨List.mem_range.2 hr, List.mem_range.2 hc⟩

/-- Settles O35: Data by RAWMOD, Format by the positions of information, and Function is what is left of n². -/
theorem builtGridModuleCounts : Obligations.BuiltGridModuleCounts := by
  intro v h1 h40
  have hsum := (square_builtGrid v (sideOf v)).sum_provenanceCount
  have hnone := provenanceCount_reservedUnused_builtGrid v (sideOf v)
  rw [hnone, Nat.add_zero] at hsum
  exact ⟨rawmod_eq_dataCount h1 h40, provenanceCount_format_builtGrid h1 h40, hnone, hsum⟩

end Sys2Proof.Machine
end

section
/-! SUPPORT. The memory matters to the stage commands only by the bytes it holds, so ENCODE may be followed from a state whose
memory has the canonical form (R40, R47). -/

namespace Sys2Proof.Machine

/-- The state with another memory of the host's bytes. -/
def withMemory (m : Memory) (s : State) : State := { s with mem := m }

section
variable (m : Memory) (s : State)

@[simp] theorem withMemory_stage : (withMemory m s).stage = s.stage := rfl
@[simp] theorem withMemory_errcode : (withMemory m s).errcode = s.errcode := rfl
@[simp] theorem withMemory_level : (withMemory m s).level = s.level := rfl
@[simp] theorem withMemory_fver : (withMemory m s).fver = s.fver := rfl
@[simp] theorem withMemory_tlen : (withMemory m s).tlen = s.tlen := rfl
@[simp] theorem withMemory_ver : (withMemory m s).ver = s.ver := rfl
@[simp] theorem withMemory_side : (withMemory m s).side = s.side := rfl
@[simp] theorem withMemory_mask : (withMemory m s).mask = s.mask := rfl
@[simp] theorem withMemory_bitlen : (withMemory m s).bitlen = s.bitlen := rfl
@[simp] theorem withMemory_dlen : (withMemory m s).dlen = s.dlen := rfl
@[simp] theorem withMemory_clen : (withMemory m s).clen = s.clen := rfl
@[simp] theorem withMemory_nblk : (withMemory m s).nblk = s.nblk := rfl
@[simp] theorem segments_withMemory : segments (withMemory m s) = segments s := rfl
@[simp] theorem dataCodewords_withMemory : dataCodewords (withMemory m s) = dataCodewords s := rfl
@[simp] theorem codewords_withMemory : codewords (withMemory m s) = codewords s := rfl
@[simp] theorem gridOf_withMemory : gridOf (withMemory m s) = gridOf s := rfl
@[simp] theorem segmentationVersion_withMemory : segmentationVersion (withMemory m s) = segmentationVersion s := rfl

end

/-- A stage command does to the state with another memory that holds the same bytes what it does to the state. -/
def MemoryOnlyRead (f : State → State) : Prop :=
  ∀ (m : Memory) (s : State), (∀ a, Memory.load m a = Memory.load s.mem a) → f (withMemory m s) = withMemory m (f s)

theorem textSlice_withMemory {m : Memory} {s : State} (hm : ∀ a, Memory.load m a = Memory.load s.mem a) (start n : Nat) :
    textSlice (withMemory m s) start n = textSlice s start n :=
  textSlice_congr (t := withMemory m s) (fun a _ => hm a) rfl start n

theorem memoryOnlyRead_atStage (required : Stage) (op : Byte) {body : State → State} (h : MemoryOnlyRead body) :
    MemoryOnlyRead (atStage required op body) := by
  intro m s hm
  rw [atStage, atStage, withMemory_stage, h m s hm]
  split <;> rfl

theorem memoryOnlyRead_runSegment : MemoryOnlyRead runSegment :=
  memoryOnlyRead_atStage _ _ fun m s hm => by
    simp only [segmentBody, textSlice_withMemory hm, withMemory_tlen, withMemory_fver, segmentationVersion_withMemory]
    split_ifs <;> rfl

theorem acceptVersion_withMemory (list : List Segment) (v : Nat) (m : Memory) (s : State) :
    acceptVersion list v (withMemory m s) = withMemory m (acceptVersion list v s) := by
  simp only [acceptVersion, withMemory_level]
  split <;> rfl

theorem memoryOnlyRead_runVselect : MemoryOnlyRead runVselect :=
  memoryOnlyRead_atStage _ _ fun m s _ => by
    simp only [vselectBody, acceptVersion_withMemory, withMemory_fver, withMemory_level, segments_withMemory]
    split_ifs
    · rfl
    · rfl
    · rfl
    · split <;> rfl

theorem memoryOnlyRead_runPack : MemoryOnlyRead runPack :=
  memoryOnlyRead_atStage _ _ fun m s hm => by
    have hstream : segmentStream (withMemory m s) = segmentStream s := by
      unfold segmentStream emitSegment
      simp only [textSlice_withMemory hm, withMemory_ver, segments_withMemory]
    simp only [packBody, hstream, withMemory_bitlen, withMemory_dlen]
    split_ifs <;> rfl

theorem memoryOnlyRead_runRsenc : MemoryOnlyRead runRsenc :=
  memoryOnlyRead_atStage _ _ fun m s _ => by
    simp only [rsencBody, withMemory_ver, withMemory_level, withMemory_dlen, withMemory_nblk, withMemory_clen,
      dataCodewords_withMemory]
    split
    · rfl
    · rw [apply_ite (withMemory m), apply_ite (withMemory m)]
      exact if_congr Iff.rfl rfl (if_congr Iff.rfl rfl rfl)

theorem memoryOnlyRead_runMbuild : MemoryOnlyRead runMbuild :=
  memoryOnlyRead_atStage _ _ fun m s _ => by
    simp only [mbuildBody, withMemory_ver, withMemory_side]
    split
    · rfl
    · rw [apply_ite (withMemory m), apply_ite (withMemory m)]
      exact if_congr Iff.rfl rfl (if_congr Iff.rfl rfl (by simp only [withMemory]))

theorem memoryOnlyRead_runMplace : MemoryOnlyRead runMplace :=
  memoryOnlyRead_atStage _ _ fun m s _ => by
    simp only [mplaceBody, withMemory_ver, withMemory_side, withMemory_clen, gridOf_withMemory, codewords_withMemory]
    split
    · rfl
    · rw [apply_ite (withMemory m)]
      exact if_congr Iff.rfl rfl rfl

theorem memoryOnlyRead_runMselect : MemoryOnlyRead runMselect :=
  memoryOnlyRead_atStage _ _ fun _ _ _ => rfl

theorem memoryOnlyRead_runFormat : MemoryOnlyRead runFormat :=
  memoryOnlyRead_atStage _ _ fun m s _ => by
    simp only [formatBody, withMemory_ver, withMemory_side, withMemory_level, withMemory_mask, gridOf_withMemory]
    split <;> rfl

theorem stageCommands_memoryOnlyRead : ∀ f ∈ stageCommands, MemoryOnlyRead f :=
  forall_mem_stageCommands.2 ⟨memoryOnlyRead_runSegment, memoryOnlyRead_runVselect, memoryOnlyRead_runPack,
    memoryOnlyRead_runRsenc, memoryOnlyRead_runMbuild, memoryOnlyRead_runMplace, memoryOnlyRead_runMselect,
    memoryOnlyRead_runFormat⟩

/-- ENCODE's run keeps the memory and needs only the bytes it holds (R295). -/
theorem runStages_withMemory {stages : List (State → State)} (hstages : ∀ f ∈ stages, f ∈ stageCommands) :
    MemoryOnlyRead (runStages stages) := by
  intro m s hm
  induction stages generalizing s with
  | nil => rfl
  | cons f rest ih =>
    have hf := hstages f (List.mem_cons_self ..)
    obtain ⟨i, -, outcome⟩ := stageCommand_outcome f hf s
    obtain ⟨-, -, -, hmem, -⟩ := outcome.sameInputs
    have hstep := stageCommands_memoryOnlyRead f hf m s hm
    have hrest := ih (fun g hg => hstages g (List.mem_cons_of_mem _ hg)) (f s) (hmem ▸ hm)
    rw [runStages, runStages, hstep, hrest]
    exact (apply_ite (withMemory m) (errFlag (f s) = true) ..).symm

theorem memoryOnlyRead_runEncode : MemoryOnlyRead runEncode := fun m s hm =>
  runStages_withMemory (fun _ hf => hf) m (acknowledge s) hm

/-- A memory with the same bytes in canonical form. -/
def canonical (m : Memory) : Memory := m.foldr (fun c rest => rest.store c.1 c.2) []

theorem wf_canonical (m : Memory) : Memory.wf (canonical m) = true := by
  induction m with
  | nil => rfl
  | cons c rest ih => exact Memory.wf_store _ _ _ ih

theorem load_canonical (m : Memory) (a : Nat) : Memory.load (canonical m) a = Memory.load m a := by
  induction m with
  | nil => rfl
  | cons c rest ih =>
    obtain ⟨b, v⟩ := c
    rw [Memory.load]
    split
    case isTrue h => exact h ▸ Memory.load_store_same ..
    case isFalse h => exact (Memory.load_store_other _ v h).trans ih

end Sys2Proof.Machine
end

section
/-! SUPPORT. ENCODE (R295, R299): it ends with an error of SEGMENT or VSELECT, or runs to stage 8. -/

namespace Sys2Proof.Machine

theorem runStages_of_ok {f : State → State} (rest : List (State → State)) {s : State} (h : (f s).errcode = .noError) :
    runStages (f :: rest) s = runStages rest (f s) := by
  rcases runStages_cons f rest s with ⟨herr, -⟩ | ⟨-, hrun⟩
  · exact absurd h herr
  · exact hrun

theorem runStages_of_raise {f : State → State} (rest : List (State → State)) {s t : State} {e : ErrCode} {op : Byte}
    (he : e ≠ .noError) (h : f s = raise e op t) : runStages (f :: rest) s = raise e op t := by
  rcases runStages_cons f rest s with ⟨-, hrun⟩ | ⟨hok, -⟩
  · rw [hrun, h]
  · rw [h] at hok
    exact absurd hok he

/-! ### PACK to FORMAT -/

/-- From a consistent state at stage a with no error recorded, `f` goes to stage b and neither raises nor ends the agreement
(R24). -/
def Completes (f : State → State) (a b : Stage) : Prop :=
  ∀ s, Consistent s → s.errcode = .noError → s.stage = a →
    Consistent (f s) ∧ (f s).errcode = .noError ∧ (f s).stage = b

theorem completes_runPack : Completes runPack .versioned .packed := by
  intro s hs hok h2
  have consistent := consistent_runPack hs
  refine ⟨consistent, ?_⟩
  rcases runPack_cases s with ⟨hne, -⟩ | ⟨-, -, h⟩ | ⟨-, -, -, -, h⟩
  · exact absurd h2 hne
  · exact absurd (h ▸ rfl) consistent.no_internal_fault.1
  · rw [h]
    exact ⟨hok, rfl⟩

theorem completes_runRsenc : Completes runRsenc .packed .coded := by
  intro s hs hok h3
  have consistent := consistent_runRsenc hs
  refine ⟨consistent, ?_⟩
  rcases runRsenc_cases s with ⟨hne, -⟩ | ⟨-, -, h⟩ | ⟨-, t, data, ecc, stream, -, -, -, -, ⟨-, h⟩ | ⟨-, -, -, -, h⟩⟩
  · exact absurd h3 hne
  · exact absurd (h ▸ rfl) consistent.no_internal_fault.2
  · exact absurd (h ▸ rfl) consistent.no_internal_fault.1
  · rw [h]
    exact ⟨hok, rfl⟩

theorem completes_runMbuild : Completes runMbuild .coded .built := by
  intro s hs hok h4
  have consistent := consistent_runMbuild hs
  refine ⟨consistent, ?_⟩
  rcases runMbuild_cases s with ⟨hne, -⟩ | ⟨-, -, h⟩ | ⟨-, -, -, h⟩ | ⟨-, -, -, h⟩
  · exact absurd h4 hne
  · exact absurd (h ▸ rfl) consistent.no_internal_fault.2
  · exact absurd (h ▸ rfl) consistent.no_internal_fault.1
  · rw [h]
    exact ⟨hok, rfl⟩

theorem completes_runMplace : Completes runMplace .built .placed := by
  intro s hs hok h5
  have consistent := consistent_runMplace hs
  refine ⟨consistent, ?_⟩
  rcases runMplace_cases s with ⟨hne, -⟩ | ⟨-, -, h⟩ | ⟨-, remainder, placed, -, -, ⟨-, h⟩ | ⟨-, h⟩⟩
  · exact absurd h5 hne
  · exact absurd (h ▸ rfl) consistent.no_internal_fault.2
  · exact absurd (h ▸ rfl) consistent.no_internal_fault.1
  · rw [h]
    exact ⟨hok, rfl⟩

theorem completes_runMselect : Completes runMselect .placed .masked := by
  intro s hs hok h6
  refine ⟨consistent_runMselect hs, ?_⟩
  rcases runMselect_cases s with ⟨hne, -⟩ | ⟨-, scores, w, -, -, h⟩
  · exact absurd h6 hne
  · rw [h]
    exact ⟨hok, rfl⟩

theorem completes_runFormat : Completes runFormat .masked .final := by
  intro s hs hok h7
  have consistent := consistent_runFormat hs
  refine ⟨consistent, ?_⟩
  rcases runFormat_cases s with ⟨hne, -⟩ | ⟨-, written, -, ⟨-, h⟩ | ⟨g, -, h⟩⟩
  · exact absurd h7 hne
  · exact absurd (h ▸ rfl) consistent.no_internal_fault.2
  · rw [h]
    exact ⟨hok, rfl⟩

theorem completes_nil (a : Stage) : Completes (runStages []) a a := fun _ hs hok ha => ⟨hs, hok, ha⟩

theorem Completes.cons {f : State → State} {rest : List (State → State)} {a b c : Stage} (hf : Completes f a b)
    (hrest : Completes (runStages rest) b c) : Completes (runStages (f :: rest)) a c := by
  intro s hs hok ha
  obtain ⟨hs', hok', hb⟩ := hf s hs hok ha
  rw [runStages_of_ok rest hok']
  exact hrest (f s) hs' hok' hb

/-- The stage commands after VSELECT (R295). -/
def laterStages : List (State → State) := [runPack, runRsenc, runMbuild, runMplace, runMselect, runFormat]

theorem completes_laterStages : Completes (runStages laterStages) .versioned .final :=
  completes_runPack.cons <| completes_runRsenc.cons <| completes_runMbuild.cons <| completes_runMplace.cons <|
    completes_runMselect.cons <| completes_runFormat.cons <| completes_nil .final

/-! ### SEGMENT and VSELECT, and the whole run -/

/-- The state that ENCODE's SEGMENT leaves (R119, R295). -/
def encodeSegmented (s : State) : State :=
  { acknowledge s with
    segt := inputSegments s, nseg := BitVec.ofNat 14 (inputSegments s).length, stage := .segmented }

theorem runSegment_acknowledge {s : State} (htlen : s.tlen.toNat ≤ 8192) (hfver : s.fver.toNat ≤ 40) :
    runSegment (acknowledge s) = encodeSegmented s :=
  Host.Outcome.next.inj (exec_segment_of_accepted (s := acknowledge s) rfl htlen hfver)

theorem segments_encodeSegmented {s : State} (htlen : s.tlen.toNat ≤ 8192) :
    segments (encodeSegmented s) = inputSegments s :=
  segments_eq_segt (s := encodeSegmented s)
    (BitVec.toNat_ofNat _ _ |>.trans (Nat.mod_eq_of_lt (inputSegments_length_lt htlen))).symm

/-- ENCODE raises in SEGMENT for its parameters, raises in VSELECT where there is no version to choose, or goes on to PACK
with the chosen version (R295, R299). -/
theorem runEncode_cases (s : State) :
    ((8192 < s.tlen.toNat ∨ 40 < s.fver.toNat) ∧ runEncode s = raise .badParameter 0x10 (acknowledge s)) ∨
    (s.tlen.toNat ≤ 8192 ∧ s.fver.toNat ≤ 40 ∧
      (((∀ v, ¬Chosen s (inputSegments s) v) ∧
          runEncode s = raise (if s.fver = 0 then .dataTooLong else .versionTooSmall) 0x11 (encodeSegmented s)) ∨
       (∃ v, Chosen s (inputSegments s) v ∧
          runVselect (encodeSegmented s) = acceptVersion (inputSegments s) v (encodeSegmented s) ∧
          runEncode s = runStages laterStages (runVselect (encodeSegmented s))))) := by
  have hstages : runEncode s = runStages (runSegment :: runVselect :: laterStages) (acknowledge s) := rfl
  rcases runSegment_cases (acknowledge s) with ⟨hne, -⟩ | ⟨-, hlarge, h⟩ | ⟨-, htlen, hfver, -⟩
  · exact absurd rfl hne
  · exact .inl ⟨hlarge, hstages.trans (runStages_of_raise _ nofun h)⟩
  · rw [acknowledge_tlen] at htlen
    rw [acknowledge_fver] at hfver
    have hsegment := runSegment_acknowledge htlen hfver
    rw [runStages_of_ok _ (by rw [hsegment]; rfl), hsegment] at hstages
    refine .inr ⟨htlen, hfver, ?_⟩
    rcases runVselect_of_segmented (s := encodeSegmented s) rfl hfver with ⟨v, hv, h⟩ | ⟨hnone, h⟩
    · rw [segments_encodeSegmented htlen] at hv h
      obtain ⟨t, total, bits, -, -, -, -, haccept⟩ := acceptVersion_of_fits (s := encodeSegmented s) hv.1
      exact .inr ⟨v, hv, h, hstages.trans (runStages_of_ok _ (by rw [h, haccept]; rfl))⟩
    · rw [segments_encodeSegmented htlen] at hnone
      exact .inl ⟨hnone, hstages.trans (runStages_of_raise _ (by split <;> nofun) h)⟩

/-- With a version to choose and a memory in canonical form ENCODE ends in a consistent state at stage 8, without an error
(R299). -/
theorem runEncode_of_chosen {s : State} {v : Nat} (hm : Memory.wf s.mem = true) (htlen : s.tlen.toNat ≤ 8192)
    (hfver : s.fver.toNat ≤ 40) (hv : Chosen s (inputSegments s) v) :
    Consistent (runEncode s) ∧ (runEncode s).errcode = .noError ∧ (runEncode s).stage = .final := by
  rcases runEncode_cases s with ⟨hlarge, -⟩ | ⟨-, -, ⟨hnone, -⟩ | ⟨u, hu, hvselect, h⟩⟩
  · omega
  · exact absurd hv (hnone v)
  · have acknowledged : Consistent (acknowledge s) := .of_invalidated (invalidated_invalidate _) hm ⟨nofun, nofun⟩
    have segmented := consistent_runSegment acknowledged rfl
    rw [runSegment_acknowledge htlen hfver] at segmented
    obtain ⟨t, total, bits, -, -, -, -, haccept⟩ := acceptVersion_of_fits (s := encodeSegmented s) hu.1
    have versioned : (runVselect (encodeSegmented s)).errcode = .noError ∧
        (runVselect (encodeSegmented s)).stage = .versioned := by
      rw [hvselect, haccept]
      exact ⟨rfl, rfl⟩
    rw [h]
    exact completes_laterStages _ (consistent_runVselect segmented) versioned.1 versioned.2

/-- Any memory will do for it, as its canonical form holds the same bytes (R299). -/
theorem runEncode_final_of_chosen {s : State} {v : Nat} (htlen : s.tlen.toNat ≤ 8192) (hfver : s.fver.toNat ≤ 40)
    (hv : Chosen s (inputSegments s) v) :
    Consistent (withMemory (canonical s.mem) (runEncode s)) ∧ (runEncode s).errcode = .noError ∧
      (runEncode s).stage = .final := by
  have hload := load_canonical s.mem
  have hinput : inputSegments (withMemory (canonical s.mem) s) = inputSegments s := by
    rw [inputSegments, textSlice_withMemory hload]
    rfl
  have hrun := runEncode_of_chosen (s := withMemory (canonical s.mem) s) (wf_canonical s.mem) htlen hfver (v := v)
    (hinput ▸ hv)
  rwa [memoryOnlyRead_runEncode _ s hload] at hrun

/-- Settles O46: SEGMENT tests the parameters, VSELECT the capacity, and the stages after it complete. -/
theorem encodeSucceedsExactlyPerCapacity : Obligations.EncodeSucceedsExactlyPerCapacity := by
  refine fun s => ⟨runEncode s, rfl, ?_⟩
  rw [← exists_chosen_iff]
  rcases runEncode_cases s with ⟨hlarge, h⟩ | ⟨htlen, hfver, ⟨hnone, h⟩ | ⟨v, hv, -⟩⟩
  · rw [h]
    exact ⟨nofun, fun ⟨htlen, hfver, _⟩ => by omega⟩
  · rw [h]
    exact ⟨nofun, fun ⟨_, _, v, hv⟩ => absurd hv (hnone v)⟩
  · obtain ⟨-, -, hfinal⟩ := runEncode_final_of_chosen htlen hfver hv
    exact ⟨fun _ => ⟨htlen, hfver, v, hv⟩, fun _ => hfinal⟩

end Sys2Proof.Machine
end

section
/-! SUPPORT. PACK (R156 to R160): cutting a bit sequence into bytes and reading it back, and the parts of the completed
sequence. -/

namespace Sys2Proof.Machine

theorem put_zero (n : Nat) : put 0 n = List.replicate n false := by simp [put, List.map_const']

/-- The bits of a byte are the eight it was cut from (R156, R231). -/
theorem bits_byteOfBits (b7 b6 b5 b4 b3 b2 b1 b0 : Bool) :
    ((List.range 8).map fun i => (byteOfBits b7 b6 b5 b4 b3 b2 b1 b0).getLsbD (7 - i)) = [b7, b6, b5, b4, b3, b2, b1, b0] := by
  revert b7 b6 b5 b4 b3 b2 b1 b0
  decide

/-- Only the empty sequence of whole bytes is cut into no byte (R156). -/
theorem eq_nil_of_cutBytes_eq_nil {bits : List Bool} (h : 8 ∣ bits.length) (hcut : cutBytes bits = []) : bits = [] := by
  have hlen := cutBytes_length bits
  rw [hcut, List.length_nil] at hlen
  exact List.length_eq_zero_iff.1 (by omega)

/-- Whole bytes cut off the front of a sequence (R156). -/
theorem cutBytes_append {bits : List Bool} (rest : List Bool) (h : 8 ∣ bits.length) :
    cutBytes (bits ++ rest) = cutBytes bits ++ cutBytes rest := by
  induction bits using cutBytes.induct with
  | case1 b7 b6 b5 b4 b3 b2 b1 b0 bits ih =>
    simp only [List.cons_append, cutBytes, ih ((Nat.dvd_add_left (Nat.dvd_refl 8)).1 h)]
  | case2 bits hshort =>
    rw [eq_nil_of_cutBytes_eq_nil h (cutBytes.eq_2 bits hshort)]
    rfl

/-- Reading whole bytes back gives the sequence they were cut from (R156, R231). -/
theorem streamBits_cutBytes {bits : List Bool} (h : 8 ∣ bits.length) : streamBits (cutBytes bits) = bits := by
  induction bits using cutBytes.induct with
  | case1 b7 b6 b5 b4 b3 b2 b1 b0 bits ih =>
    rw [cutBytes, streamBits, List.flatMap_cons, bits_byteOfBits, ← streamBits,
      ih ((Nat.dvd_add_left (Nat.dvd_refl 8)).1 h)]
    rfl
  | case2 bits hshort =>
    rw [eq_nil_of_cutBytes_eq_nil h (cutBytes.eq_2 bits hshort)]
    rfl

/-- The pad bytes are 0xEC and 0x11 by turns (R159). -/
theorem cutBytes_padBytes_getElem? {n i : Nat} (p : Nat) (hi : i < n) :
    (cutBytes (padBytes p n))[i]? = some (if (p + i) % 2 = 0 then 0xEC else 0x11) := by
  induction n generalizing p i with
  | zero => omega
  | succ n ih =>
    have hbyte : cutBytes (put (if p % 2 = 0 then 0xEC else 0x11) 8) = [if p % 2 = 0 then 0xEC else 0x11] := by
      split <;> rfl
    rw [padBytes, cutBytes_append _ (by rw [put_length]), hbyte, List.singleton_append]
    cases i with
    | zero => rfl
    | succ i => rw [List.getElem?_cons_succ, ih (p + 1) (by omega), Nat.add_right_comm, Nat.add_assoc]

/-- The bytes that the bits, the terminator and the zeros up to the byte boundary fill (R157, R158). -/
def filledBytes (cap : Nat) (bits : List Bool) : Nat := (bits.length + min 4 (cap - bits.length) + 7) / 8

/-- Terminator and bit padding are zeros up to the end of a byte (R157, R158). -/
theorem withBitPadding_withTerminator (cap : Nat) (bits : List Bool) :
    withBitPadding (withTerminator cap bits) =
      bits ++ List.replicate (8 * filledBytes cap bits - bits.length) false := by
  simp only [withBitPadding, withTerminator, put_zero, List.append_assoc, List.replicate_append_replicate,
    List.length_append, List.length_replicate, filledBytes]
  congr 2
  omega

theorem withBitPadding_withTerminator_length (cap : Nat) (bits : List Bool) :
    (withBitPadding (withTerminator cap bits)).length = 8 * filledBytes cap bits := by
  rw [withBitPadding_withTerminator, List.length_append, List.length_replicate, filledBytes]
  omega

/-- After the filled bytes of the completed sequence come the pad bytes (R159). -/
theorem completeStream_eq (d : Nat) (bits : List Bool) :
    completeStream (8 * d) bits =
      withBitPadding (withTerminator (8 * d) bits) ++ padBytes 0 (d - filledBytes (8 * d) bits) := by
  rw [completeStream, withPadBytes, withBitPadding_withTerminator_length]
  congr 2
  omega

/-- The bits of the filled bytes: the sequence, then zeros (R157, R158). -/
theorem completeStream_getElem?_of_filled {d b : Nat} {bits : List Bool} (hb : b < 8 * filledBytes (8 * d) bits) :
    (completeStream (8 * d) bits)[b]? = if b < bits.length then bits[b]? else some false := by
  rw [completeStream_eq, List.getElem?_append_left (by rwa [withBitPadding_withTerminator_length]),
    withBitPadding_withTerminator, List.getElem?_append]
  split
  · rfl
  · exact List.getElem?_replicate_of_lt (by omega)

/-- The bytes of the completed sequence after the filled ones (R156, R159). -/
theorem cutBytes_completeStream_getElem?_of_pad {d j : Nat} {bits : List Bool} (hk : filledBytes (8 * d) bits ≤ j)
    (hj : j < d) : (cutBytes (completeStream (8 * d) bits))[j]? =
      some (if (j - filledBytes (8 * d) bits) % 2 = 0 then 0xEC else 0x11) := by
  have hlen := withBitPadding_withTerminator_length (8 * d) bits
  have hcut : (cutBytes (withBitPadding (withTerminator (8 * d) bits))).length = filledBytes (8 * d) bits := by
    rw [cutBytes_length, hlen, Nat.mul_div_cancel_left _ (by decide)]
  rw [completeStream_eq, cutBytes_append _ (Dvd.intro _ hlen.symm), List.getElem?_append_right (hcut ▸ hk), hcut,
    cutBytes_padBytes_getElem? 0 (by omega), Nat.zero_add]

/-- In a consistent state at stage 2 PACK writes the completed stream (R160): its internal tests do not fire (R306). -/
theorem exec_pack_of_consistent {s : State} (hs : Consistent s) (h2 : s.stage = .versioned) :
    exec .pack s = .next { s with
      dcw := cutBytes (completeStream (8 * s.dlen.toNat) (segmentStream s)), stage := .packed } := by
  obtain ⟨hlen, hle⟩ := hs.segmentStream_length (by rw [h2]; decide)
  have hfull := completeStream_length s.dlen.toNat (segmentStream s) (by omega)
  rcases runPack_cases s with ⟨hne, -⟩ | ⟨-, hfault, -⟩ | ⟨-, -, -, -, h⟩
  · exact absurd h2 hne
  · omega
  · exact congrArg Host.Outcome.next h

/-- Settles O30: DCW is the completed stream cut into bytes, and reading it back gives its parts. -/
theorem packResult : Obligations.PackResult := by
  intro s hs h2
  obtain ⟨hlen, hle⟩ := hs.segmentStream_length (by rw [h2]; decide)
  have hfull := completeStream_length s.dlen.toNat (segmentStream s) (by omega)
  have hread := streamBits_cutBytes (hfull ▸ Nat.dvd_mul_right 8 _)
  refine ⟨_, _, exec_pack_of_consistent hs h2, rfl, ?length, hlen, rfl, fun b hb => ?bits, fun b hb hbk => ?zeros,
    fun j hkj hj => ?pads⟩
  case length => rw [cutBytes_length, hfull, Nat.mul_div_cancel_left _ (by decide)]
  case bits =>
    rw [hread, completeStream_getElem?_of_filled (by rw [filledBytes]; omega), if_pos (hlen ▸ hb)]
  case zeros =>
    rw [← hlen, ← filledBytes] at hbk
    rw [hread, completeStream_getElem?_of_filled hbk, if_neg (by omega)]
  case pads =>
    rw [← hlen, ← filledBytes] at hkj ⊢
    exact cutBytes_completeStream_getElem?_of_pad hkj hj

end Sys2Proof.Machine
end

section
/-! SUPPORT. The GF(256) unit (R170 to R183). α times is additive, and the product by α^i is i times α times; so the
product is additive, and the bitwise multiplication computes it. -/

namespace Sys2Proof.Machine

/-! ### The logarithm of a power, and the bytes as powers (R172, R173) -/

theorem gfLog_gfExp_of_lt : ∀ i < 255, gfLog (gfExp i) = some i := by decide +kernel

@[simp] theorem gfLog_gfExp (i : Nat) : gfLog (gfExp i) = some (i % 255) := by
  rw [← gfExp_mod, gfLog_gfExp_of_lt _ (Nat.mod_lt i (by decide))]

theorem gfLog_zero : gfLog 0 = none := rfl

theorem gfExp_ne_zero (i : Nat) : gfExp i ≠ 0 := fun h => by
  have hlog := gfLog_gfExp i
  rw [h, gfLog_zero] at hlog
  cases hlog

theorem exists_gfExp_eq {a : Byte} (h : a ≠ 0) : ∃ i, gfExp i = a :=
  have ⟨i, _, _, hi⟩ := gfLog_spec a h
  ⟨i, hi⟩

/-- A byte is zero or a power of α (R172). -/
theorem byte_cases {P : Byte → Prop} (zero : P 0) (power : ∀ i, P (gfExp i)) (a : Byte) : P a := by
  by_cases h : a = 0
  · exact h ▸ zero
  · obtain ⟨i, rfl⟩ := exists_gfExp_eq h
    exact power i

/-! ### The product and the quotient of powers (R174, R175) -/

theorem zero_gmul (b : Byte) : gmul 0 b = 0 := rfl

theorem gmul_zero (a : Byte) : gmul a 0 = 0 := by
  rw [gmul, gfLog_zero]
  cases gfLog a <;> rfl

@[simp] theorem gmul_gfExp (i j : Nat) : gmul (gfExp i) (gfExp j) = gfExp (i + j) := by
  simp only [gmul, gfLog_gfExp]
  exact gfExp_congr (Nat.add_mod i j 255).symm

theorem gmul_comm (a b : Byte) : gmul a b = gmul b a := by
  induction a using byte_cases with
  | zero => rw [zero_gmul, gmul_zero]
  | power i =>
    induction b using byte_cases with
    | zero => rw [zero_gmul, gmul_zero]
    | power j => rw [gmul_gfExp, gmul_gfExp, Nat.add_comm]

theorem gmul_assoc (a b c : Byte) : gmul (gmul a b) c = gmul a (gmul b c) := by
  induction a using byte_cases with
  | zero => simp only [zero_gmul]
  | power i =>
    induction b using byte_cases with
    | zero => simp only [zero_gmul, gmul_zero]
    | power j =>
      induction c using byte_cases with
      | zero => simp only [gmul_zero]
      | power k => simp only [gmul_gfExp, Nat.add_assoc]

theorem one_gmul (a : Byte) : gmul 1 a = a := by
  induction a using byte_cases with
  | zero => exact gmul_zero 1
  | power i => exact (gmul_gfExp 0 i).trans (congrArg gfExp (Nat.zero_add i))

theorem gmul_one (a : Byte) : gmul a 1 = a := by rw [gmul_comm, one_gmul]

theorem gmul_ne_zero {a b : Byte} (ha : a ≠ 0) (hb : b ≠ 0) : gmul a b ≠ 0 := by
  obtain ⟨i, rfl⟩ := exists_gfExp_eq ha
  obtain ⟨j, rfl⟩ := exists_gfExp_eq hb
  exact gmul_gfExp i j ▸ gfExp_ne_zero (i + j)

theorem eq_zero_or_eq_zero_of_gmul_eq_zero {a b : Byte} (h : gmul a b = 0) : a = 0 ∨ b = 0 := by
  by_contra! hne
  exact gmul_ne_zero hne.1 hne.2 h

theorem gdiv_zero (a : Byte) : gdiv a 0 = none := by
  rw [gdiv, gfLog_zero]

/-- Division by a byte other than 0 undoes multiplication by it (R175, R177). -/
theorem exists_gdiv_eq_some (a : Byte) {b : Byte} (hb : b ≠ 0) : ∃ q, gdiv a b = some q ∧ gmul q b = a := by
  obtain ⟨j, rfl⟩ := exists_gfExp_eq hb
  induction a using byte_cases with
  | zero => exact ⟨0, by simp only [gdiv, gfLog_zero, gfLog_gfExp], zero_gmul _⟩
  | power i =>
    refine ⟨gfExp (i % 255 + 255 - j % 255), by simp only [gdiv, gfLog_gfExp], ?_⟩
    rw [gmul_gfExp]
    exact gfExp_congr (by omega)

/-! ### Multiplication by α, and distributivity (R172, R177) -/

/-- Multiplication by α as a shift: the bit that leaves the byte subtracts p(x) (R172). -/
theorem xtime_eq_shiftLeft : ∀ a : Byte, xtime a = a <<< 1 ^^^ if a.msb then 0x1D else 0 := by decide +kernel

theorem xtime_xor (a b : Byte) : xtime (a ^^^ b) = xtime a ^^^ xtime b := by
  have hreduce : ∀ x y : Bool,
      (if x ^^ y then 0x1D else 0 : Byte) = (if x then 0x1D else 0) ^^^ (if y then 0x1D else 0) := by decide
  simp only [xtime_eq_shiftLeft, BitVec.shiftLeft_xor_distrib, BitVec.msb_xor, hreduce]
  ac_rfl

/-- Multiplication by α is the product with α. -/
theorem xtime_gmul (a b : Byte) : xtime (gmul a b) = gmul (xtime a) b := by
  induction a using byte_cases with
  | zero => rfl
  | power i =>
    induction b using byte_cases with
    | zero => simp only [gmul_zero]; rfl
    | power j => rw [gmul_gfExp, ← gfExp_succ, ← gfExp_succ, gmul_gfExp, Nat.add_right_comm]

theorem gmul_xtime (a b : Byte) : gmul a (xtime b) = gmul (xtime a) b := by
  rw [← xtime_gmul, gmul_comm a b, xtime_gmul, gmul_comm]

/-- The product is additive in its second factor: for the first factor a power of α, by induction on the exponent. -/
theorem gmul_xor (a b c : Byte) : gmul a (b ^^^ c) = gmul a b ^^^ gmul a c := by
  induction a using byte_cases with
  | zero => simp only [zero_gmul]; rfl
  | power i =>
    induction i with
    | zero => simp only [show gfExp 0 = 1 from rfl, one_gmul]
    | succ i ih => rw [gfExp_succ, ← xtime_gmul, ih, xtime_xor, xtime_gmul, xtime_gmul]

/-! ### The table-free multiplication (R176) -/

/-- A byte is its lowest bit plus α times the rest of its bits. -/
theorem ofNat_eq_xor_xtime : ∀ b < 256,
    BitVec.ofNat 8 b = (if b % 2 = 1 then 1 else 0) ^^^ xtime (BitVec.ofNat 8 (b / 2)) := by decide +kernel

/-- The bitwise multiplication takes the second factor apart, bit by bit. -/
theorem gmulBits_eq_gmul (fuel : Nat) (a : Byte) (b : Nat) (hfuel : b < 2 ^ fuel) (hb : b < 256) :
    gmulBits fuel a b = gmul a (BitVec.ofNat 8 b) := by
  induction fuel generalizing a b with
  | zero =>
    obtain rfl : b = 0 := by omega
    exact (gmul_zero a).symm
  | succ fuel ih =>
    rw [gmulBits, ih _ _ (by omega) (by omega), ofNat_eq_xor_xtime b hb, gmul_xor, gmul_xtime]
    split
    · rw [gmul_one]
    · rw [gmul_zero]

/-! ### The obligations -/

/-- Settles O11: the laws of the product are those of the powers of α, and the bytes but 0 are the powers. -/
theorem fieldLaws : Obligations.FieldLaws :=
  ⟨fun a b c => ⟨BitVec.xor_comm a b, BitVec.xor_assoc a b c, BitVec.xor_zero, gmul_comm a b, gmul_assoc a b c,
    gmul_xor a b c, gmul_one a, gmul_zero a, eq_zero_or_eq_zero_of_gmul_eq_zero, exists_gdiv_eq_some a⟩,
   gfLog_spec, fun i hi => gfLog_gfExp_of_lt i (by omega)⟩

/-- Settles O12: the second factor has eight bits. -/
theorem tableFreeMultiplicationAgrees : Obligations.TableFreeMultiplicationAgrees := fun a b => by
  rw [gmulBits_eq_gmul 8 a b.toNat b.isLt b.isLt, BitVec.ofNat_toNat, BitVec.setWidth_eq]

/-- Settles O13: GFMUL writes the product by logarithms, which the bitwise one equals. -/
theorem gfmulResult : Obligations.GfmulResult := fun a b s => by
  rw [exec, execGfmul, tableFreeMultiplicationAgrees]

/-- Settles O14: the quotient exists exactly for a divisor other than 0. -/
theorem gfdivResult : Obligations.GfdivResult := by
  refine fun a b s => ⟨fun hb => ?_, fun hb => ?_⟩
  · obtain ⟨q, hq, hmul⟩ := exists_gdiv_eq_some a hb
    exact ⟨q, hmul, by rw [exec, execGfdiv, hq]⟩
  · rw [exec, execGfdiv, hb, gdiv_zero]
    rfl

/-- Settles O15: EXP holds the powers of α, and LOG of a byte other than 0 its exponent. -/
theorem gfexpAndGflogResult : Obligations.GfexpAndGflogResult := by
  refine ⟨fun k s => by rw [exec, execGfexp, gfExp_eq_alphaPower], fun a s => ⟨fun ha => ?_, fun ha => ?_⟩⟩
  · obtain ⟨i, hlog, hi, hexp⟩ := gfLog_spec a ha
    exact ⟨i, hi, by rw [← gfExp_eq_alphaPower, hexp], by rw [exec, execGflog, hlog]⟩
  · rw [exec, execGflog, ha, gfLog_zero]
    rfl

end Sys2Proof.Machine
end

section
/-! SUPPORT. Polynomials over GF(256) and the remainder register (R190 to R199): the product with x + α^i is a shift plus a
multiple, and one step of the register is the shifted register plus a multiple of g_E, so both keep the roots of g_E. -/

namespace Sys2Proof.Machine

/-! ### Sums of bytes (R171), with the model's spelling of 0 -/

theorem byte_xor_zero (a : Byte) : a ^^^ 0 = a := BitVec.xor_zero

theorem byte_zero_xor (a : Byte) : 0 ^^^ a = a := BitVec.zero_xor

theorem byte_xor_self (a : Byte) : a ^^^ a = 0 := BitVec.xor_self

theorem byte_xor_xor_cancel (a b : Byte) : a ^^^ (b ^^^ a) = b := by
  rw [BitVec.xor_comm b, ← BitVec.xor_assoc, byte_xor_self, byte_zero_xor]

theorem xor_gmul (a b c : Byte) : gmul (a ^^^ b) c = gmul a c ^^^ gmul b c := by
  rw [gmul_comm, gmul_xor, gmul_comm c, gmul_comm c]

/-- Adding a list of zeros, at least as long, changes nothing. -/
theorem zipWith_xor_zeros {n : Nat} {l : List Byte} (h : l.length ≤ n) :
    List.zipWith (· ^^^ ·) (List.replicate n 0) l = l := by
  induction l generalizing n with
  | nil => exact List.zipWith_nil_right
  | cons b l ih =>
    obtain ⟨n, rfl⟩ := Nat.exists_eq_add_of_lt h
    rw [List.replicate_succ, List.zipWith_cons_cons, byte_zero_xor, ih (by simp)]

/-! ### The value of a polynomial (R191) -/

/-- Horner's rule continued from a value: `peval` is the start from 0. -/
def hornerFrom (y acc : Byte) (p : List Byte) : Byte := p.foldl (fun acc c => gmul acc y ^^^ c) acc

theorem hornerFrom_nil (y acc : Byte) : hornerFrom y acc [] = acc := rfl

theorem hornerFrom_cons (y acc c : Byte) (p : List Byte) :
    hornerFrom y acc (c :: p) = hornerFrom y (gmul acc y ^^^ c) p := rfl

theorem peval_eq_hornerFrom (p : List Byte) (y : Byte) : peval p y = hornerFrom y 0 p := rfl

theorem peval_append (p q : List Byte) (y : Byte) : peval (p ++ q) y = hornerFrom y (peval p y) q :=
  List.foldl_append

/-- A last coefficient 0 is a factor x. -/
theorem peval_append_zero (p : List Byte) (y : Byte) : peval (p ++ [0]) y = gmul (peval p y) y := by
  rw [peval_append, hornerFrom_cons, hornerFrom_nil, byte_xor_zero]

theorem peval_zero_cons (p : List Byte) (y : Byte) : peval (0 :: p) y = peval p y := by
  rw [peval_eq_hornerFrom, hornerFrom_cons, zero_gmul, byte_xor_self, peval_eq_hornerFrom]

/-- The value is additive in the starting value and the coefficients together. -/
theorem hornerFrom_xor (y : Byte) {p q : List Byte} (h : p.length = q.length) (a b : Byte) :
    hornerFrom y (a ^^^ b) (List.zipWith (· ^^^ ·) p q) = hornerFrom y a p ^^^ hornerFrom y b q := by
  induction p generalizing q a b with
  | nil =>
    cases List.length_eq_zero_iff.1 h.symm
    rfl
  | cons c p ih =>
    cases q with
    | nil => cases h
    | cons d q =>
      have hstep : gmul (a ^^^ b) y ^^^ (c ^^^ d) = gmul a y ^^^ c ^^^ (gmul b y ^^^ d) := by
        rw [xor_gmul]
        ac_rfl
      rw [List.zipWith_cons_cons, hornerFrom_cons, hstep, ih (Nat.succ.inj h), hornerFrom_cons, hornerFrom_cons]

theorem peval_xor {p q : List Byte} (h : p.length = q.length) (y : Byte) :
    peval (List.zipWith (· ^^^ ·) p q) y = peval p y ^^^ peval q y :=
  hornerFrom_xor y h 0 0

/-- Adding a polynomial to the low coefficients adds its value. -/
theorem peval_append_xor (l : List Byte) {p q : List Byte} (h : p.length = q.length) (y : Byte) :
    peval (l ++ List.zipWith (· ^^^ ·) p q) y = peval (l ++ p) y ^^^ peval q y := by
  rw [peval_append, peval_append, peval_eq_hornerFrom q, ← hornerFrom_xor y h, byte_xor_zero]

theorem peval_map_gmul (c : Byte) (p : List Byte) (y : Byte) : peval (p.map (gmul c)) y = gmul c (peval p y) := by
  induction p using List.reverseRecOn with
  | nil => exact (gmul_zero c).symm
  | append_singleton p d ih =>
    rw [List.map_append, peval_append, ih, peval_append, List.map_singleton, hornerFrom_cons, hornerFrom_nil, hornerFrom_cons,
      hornerFrom_nil, gmul_xor, gmul_assoc]

/-! ### The generator polynomial (R192) -/

/-- The product with x + c: p moved up one power plus c times p. -/
theorem pmul_linear (c : Byte) {p : List Byte} (h : p ≠ []) :
    pmul p [1, c] = List.zipWith (· ^^^ ·) (p ++ [0]) (0 :: p.map (gmul c)) := by
  induction p with
  | nil => exact absurd rfl h
  | cons a p ih =>
    cases p with
    | nil =>
      simp only [pmul, xorLeft, List.map_cons, List.map_nil, List.nil_append, List.cons_append, List.zipWith_cons_cons,
        List.zipWith_nil_right, gmul_one, byte_zero_xor, gmul_comm a c]
    | cons b p =>
      rw [pmul, ih (by simp)]
      simp only [xorLeft, List.map_cons, List.map_nil, List.cons_append, List.zipWith_cons_cons, gmul_one, byte_xor_zero,
        byte_zero_xor, gmul_comm a c, BitVec.xor_comm b]

theorem generator_ne_nil (e : Nat) : generator e ≠ [] :=
  List.ne_nil_of_length_eq_add_one (generator_length e)

theorem generator_succ (e : Nat) :
    generator (e + 1) = List.zipWith (· ^^^ ·) (generator e ++ [0]) (0 :: (generator e).map (gmul (gfExp e))) :=
  pmul_linear (gfExp e) (generator_ne_nil e)

theorem peval_generator_succ (e : Nat) (y : Byte) :
    peval (generator (e + 1)) y = gmul (peval (generator e) y) (y ^^^ gfExp e) := by
  rw [generator_succ, peval_xor (by simp), peval_append_zero, peval_zero_cons, peval_map_gmul, gmul_xor,
    gmul_comm (gfExp e)]

theorem peval_generator_eq_zero {e i : Nat} (h : i < e) : peval (generator e) (gfExp i) = 0 := by
  induction e with
  | zero => omega
  | succ e ih =>
    rw [peval_generator_succ]
    rcases Nat.lt_succ_iff_lt_or_eq.1 h with hlt | rfl
    · rw [ih hlt, zero_gmul]
    · rw [byte_xor_self, gmul_zero]

theorem head?_generator (e : Nat) : (generator e).head? = some 1 := by
  induction e with
  | zero => rfl
  | succ e ih =>
    rw [generator_succ, List.head?_zipWith, List.head?_append, ih]
    rfl

/-- g_E is monic, and the listed coefficients are the others (R193). -/
theorem generator_eq_cons (e : Nat) : generator e = 1 :: generatorCoeffs e :=
  (List.cons_head?_tail (head?_generator e)).symm

/-- Settles O16: the factor x + α^E keeps the leading coefficient 1 and adds the root α^E. -/
theorem generatorHasConsecutiveRoots : Obligations.GeneratorHasConsecutiveRoots := fun e =>
  ⟨generator_length e, head?_generator e, fun _ => peval_generator_eq_zero⟩

/-! ### The remainder register (R196) -/

theorem rsRemainder_append_singleton (data : List Byte) (d : Byte) (e : Nat) :
    rsRemainder (data ++ [d]) e = remainderStep (generatorCoeffs e) (rsRemainder data e) d :=
  List.foldl_append

/-- One step as polynomials: the register with d put in is the register moved up one power, plus a multiple of the monic
polynomial with the coefficients g. -/
theorem cons_remainderStep (g : List Byte) (r d : Byte) (rest : List Byte) :
    d :: remainderStep g (r :: rest) d =
      List.zipWith (· ^^^ ·) (r :: rest ++ [0]) ((1 :: g).map (gmul (d ^^^ r))) := by
  simp only [remainderStep, List.map_cons, List.cons_append, List.zipWith_cons_cons, one_gmul, byte_xor_xor_cancel,
    List.zipWith_map_right, gmul_comm (d ^^^ r)]

theorem peval_zeros (n : Nat) (y : Byte) : peval (List.replicate n 0) y = 0 := by
  induction n with
  | zero => rfl
  | succ n ih => rw [List.replicate_succ, peval_zero_cons, ih]

/-- Settles O18: a step of the register adds a multiple of g_E to the polynomial moved up one power, and both have the root. -/
theorem syndromesAreZero : Obligations.SyndromesAreZero := by
  intro data e i hi
  induction data using List.reverseRecOn with
  | nil => exact peval_zeros e (gfExp i)
  | append_singleton data d ih =>
    have hlen := rsRemainder_length data e
    obtain ⟨r, rest, hrem⟩ := List.exists_cons_of_length_pos (hlen.symm ▸ Nat.zero_lt_of_lt hi)
    rw [hrem] at ih hlen
    have hsum : (r :: rest ++ [0]).length = ((generator e).map (gmul (d ^^^ r))).length := by
      rw [List.length_append, hlen, List.length_map, generator_length, List.length_singleton]
    calc peval (data ++ [d] ++ rsRemainder (data ++ [d]) e) (gfExp i)
      _ = peval (data ++ d :: remainderStep (generatorCoeffs e) (r :: rest) d) (gfExp i) := by
        rw [rsRemainder_append_singleton, hrem, List.append_assoc, List.singleton_append]
      _ = peval (data ++ r :: rest ++ [0]) (gfExp i) ^^^ gmul (d ^^^ r) (peval (generator e) (gfExp i)) := by
        rw [cons_remainderStep, ← generator_eq_cons, peval_append_xor data hsum, ← List.append_assoc, peval_map_gmul]
      _ = 0 := by
        rw [peval_append_zero, ih, zero_gmul, peval_generator_eq_zero hi, gmul_zero, byte_xor_self]

/-! ### Linearity (R198) -/

theorem zipWith_feedback_xor (f f' : Byte) (g u u' : List Byte) :
    List.zipWith (fun r gi => r ^^^ gmul gi (f ^^^ f')) (List.zipWith (· ^^^ ·) u u') g =
      List.zipWith (· ^^^ ·) (List.zipWith (fun r gi => r ^^^ gmul gi f) u g)
        (List.zipWith (fun r gi => r ^^^ gmul gi f') u' g) := by
  induction g generalizing u u' with
  | nil => simp only [List.zipWith_nil_right]
  | cons c g ih =>
    cases u with
    | nil => rfl
    | cons x u =>
      cases u' with
      | nil => rfl
      | cons x' u' =>
        have hterm : x ^^^ x' ^^^ gmul c (f ^^^ f') = x ^^^ gmul c f ^^^ (x' ^^^ gmul c f') := by
          rw [gmul_xor]
          ac_rfl
        simp only [List.zipWith_cons_cons, hterm, ih]

theorem remainderStep_xor (g : List Byte) {rem rem' : List Byte} (h : rem.length = rem'.length) (d d' : Byte) :
    remainderStep g (List.zipWith (· ^^^ ·) rem rem') (d ^^^ d') =
      List.zipWith (· ^^^ ·) (remainderStep g rem d) (remainderStep g rem' d') := by
  cases rem with
  | nil => rfl
  | cons r rest =>
    cases rem' with
    | nil => cases h
    | cons r' rest' =>
      have hfeedback : d ^^^ d' ^^^ (r ^^^ r') = d ^^^ r ^^^ (d' ^^^ r') := by ac_rfl
      have happend := List.zipWith_append (f := (· ^^^ · : Byte → Byte → Byte)) (l₁' := [0]) (l₂' := [0]) (Nat.succ.inj h)
      simp only [remainderStep, List.zipWith_cons_cons, hfeedback, ← zipWith_feedback_xor, happend]
      rfl

theorem foldl_remainderStep_xor {g : List Byte} {d d' : List Byte} (h : d.length = d'.length) {rem rem' : List Byte}
    (hrem : rem.length = g.length) (hrem' : rem'.length = g.length) :
    (List.zipWith (· ^^^ ·) d d').foldl (remainderStep g) (List.zipWith (· ^^^ ·) rem rem') =
      List.zipWith (· ^^^ ·) (d.foldl (remainderStep g) rem) (d'.foldl (remainderStep g) rem') := by
  induction d generalizing d' rem rem' with
  | nil =>
    cases List.length_eq_zero_iff.1 h.symm
    rfl
  | cons x d ih =>
    cases d' with
    | nil => cases h
    | cons x' d' =>
      rw [List.zipWith_cons_cons, List.foldl_cons, remainderStep_xor g (hrem.trans hrem'.symm), List.foldl_cons,
        List.foldl_cons]
      exact ih (Nat.succ.inj h) (remainderStep_length g rem x hrem) (remainderStep_length g rem' x' hrem')

theorem rsRemainder_xor (e : Nat) {d d' : List Byte} (h : d.length = d'.length) :
    rsRemainder (List.zipWith (· ^^^ ·) d d') e = List.zipWith (· ^^^ ·) (rsRemainder d e) (rsRemainder d' e) := by
  have hzeros : (List.replicate e (0 : Byte)).length = (generatorCoeffs e).length := by
    rw [List.length_replicate, generatorCoeffs_length]
  have hfold := foldl_remainderStep_xor h hzeros hzeros
  rwa [zipWith_xor_zeros (by rw [List.length_replicate])] at hfold

/-- A step of the register is homogeneous in the register and the data byte. -/
theorem remainderStep_map_gmul (g : List Byte) (c d : Byte) (rem : List Byte) :
    remainderStep g (rem.map (gmul c)) (gmul c d) = (remainderStep g rem d).map (gmul c) := by
  cases rem with
  | nil => rfl
  | cons r rest =>
    have hzero : rest.map (gmul c) ++ [0] = (rest ++ [0]).map (gmul c) := by
      rw [List.map_append, List.map_singleton, gmul_zero]
    have hterm (x y : Byte) : gmul c x ^^^ gmul y (gmul c d ^^^ gmul c r) = gmul c (x ^^^ gmul y (d ^^^ r)) := by
      rw [← gmul_xor, gmul_xor c x, ← gmul_assoc, gmul_comm y c, gmul_assoc]
    simp only [remainderStep, List.map_cons, hzero, List.zipWith_map_left, List.map_zipWith, hterm]

theorem map_gmul_zeros (c : Byte) (n : Nat) : (List.replicate n 0).map (gmul c) = List.replicate n 0 := by
  rw [List.map_replicate, gmul_zero]

theorem rsRemainder_map_gmul (c : Byte) (data : List Byte) (e : Nat) :
    rsRemainder (data.map (gmul c)) e = (rsRemainder data e).map (gmul c) := by
  induction data using List.reverseRecOn with
  | nil => exact (map_gmul_zeros c e).symm
  | append_singleton data d ih =>
    rw [List.map_append, List.map_singleton, rsRemainder_append_singleton, ih, remainderStep_map_gmul,
      rsRemainder_append_singleton]

theorem map_zero_gmul (l : List Byte) : l.map (gmul 0) = List.replicate l.length 0 :=
  List.map_eq_replicate_iff.2 fun b _ => zero_gmul b

/-- Zero data, being 0 times themselves, give zero ecc. -/
theorem rsRemainder_zeros (k e : Nat) : rsRemainder (List.replicate k 0) e = List.replicate e 0 := by
  rw [← map_gmul_zeros 0 k, rsRemainder_map_gmul, map_zero_gmul, rsRemainder_length]

theorem rsRemainder_zero_cons (data : List Byte) (e : Nat) : rsRemainder (0 :: data) e = rsRemainder data e := 
  congrArg (data.foldl (remainderStep (generatorCoeffs e))) (rsRemainder_zeros 1 e)

theorem rsRemainder_one (e : Nat) : rsRemainder [1] e = generatorCoeffs e := by
  cases e with
  | zero => rfl
  | succ e =>
    have hstep := cons_remainderStep (generatorCoeffs (e + 1)) 0 1 (List.replicate e 0)
    have hone : (1 :: generatorCoeffs (e + 1)).map (gmul (1 ^^^ 0)) = 1 :: generatorCoeffs (e + 1) :=
      (List.map_congr_left fun b _ => one_gmul b).trans (List.map_id _)
    have hzeros : 0 :: List.replicate e 0 ++ [0] = List.replicate (e + 2) (0 : Byte) := by
      rw [← List.replicate_succ, ← List.replicate_succ']
    rw [hone, hzeros, zipWith_xor_zeros (by simp [generatorCoeffs_length])] at hstep
    exact List.tail_eq_of_cons_eq hstep

/-- Settles O17: the register is linear at every step; zero data are 0 times themselves; the data [01] leave g_E. -/
theorem remainderIsLinear : Obligations.RemainderIsLinear := fun e =>
  ⟨fun _ _ => rsRemainder_xor e, fun c data => rsRemainder_map_gmul c data e, fun k => rsRemainder_zeros k e,
    fun data => rsRemainder_zero_cons data e, rsRemainder_one e⟩

end Sys2Proof.Machine
end

section
/-! SUPPORT. The commands RSGEN, RSBLK and RSENC (R205, R207, R208): what RSOUT holds, and that the bytes they read are those of
the buffers. -/

namespace Sys2Proof.Machine

/-- RSOUT holds the list, and zeros after it (R207, R208). -/
theorem rsoutOf_spec {l : List Byte} {e : Nat} (hlen : l.length = e) (he : e ≤ 30) (i : Fin 30) :
    if i.val < e then l[i.val]? = some (rsoutOf l)[i] else (rsoutOf l)[i] = 0 := by
  have hread : (rsoutOf l)[i] = (pad30 l)[i.val]'(by rw [pad30_length]; exact i.isLt) := rfl
  rw [hread]
  split
  case isTrue hi =>
    rw [← List.getElem?_eq_getElem, pad30, List.take_of_length_le (by omega), List.getElem?_append_left (by omega)]
  case isFalse hi =>
    simp only [pad30, List.take_of_length_le (show l.length ≤ 30 by omega)]
    rw [List.getElem_append_right (by omega), List.getElem_replicate]

/-- Settles O19: RSOUT takes the E listed coefficients. -/
theorem rsgenResult : Obligations.RsgenResult := by
  intro e s h1 h30
  refine ⟨{ s with rsout := rsoutOf (generatorCoeffs e) }, ?_, rfl, rsoutOf_spec (generatorCoeffs_length e) h30⟩
  rw [exec, execRsgen, if_neg (by simp only [Config.eccMax]; omega)]

theorem windowByte_rsin (s : State) {i : Nat} (hi : i < 256) :
    windowByte s (0x00300 + i) = Memory.load s.mem (rsinBase + i) :=
  windowByte_of_mem (row := ⟨0x00300, 0x003FF, .rsin⟩) (by decide) s (by dsimp only; omega)

theorem rsinBytes_length (s : State) (n : Nat) : (rsinBytes s n).length = n := by simp [rsinBytes]

/-- A byte of RSIN that the host wrote is the one the command reads (R46). -/
theorem rsinBytes_getElem?_of_written {s : State} {n i : Nat} {b : Byte} (hi : i < n) (hn : n ≤ 256)
    (hb : windowByte s (0x00300 + i) = some b) : (rsinBytes s n)[i]? = some b := by
  rw [windowByte_rsin s (by omega)] at hb
  simp [rsinBytes, hi, hb]

/-- Settles O20: RSOUT takes the remainder of the bytes RSIN holds. -/
theorem rsblkResult : Obligations.RsblkResult := by
  intro k e s h1 h30 hk hsum
  refine ⟨{ s with rsout := rsoutOf (rsRemainder (rsinBytes s k) e) }, rsinBytes s k, ?_, rfl, rsinBytes_length s k,
    fun i b hi => rsinBytes_getElem?_of_written hi (by omega), rsoutOf_spec (rsRemainder_length _ e) h30⟩
  rw [exec, execRsblk, if_neg (by simp only [Config.eccMax]; omega)]

/-- The data codewords that RSENC reads are those stored (R42). -/
theorem dataCodewords_eq_dcw {s : State} (h : s.dcw.length = s.dlen.toNat) : dataCodewords s = s.dcw :=
  List.ext_getElem (by simp [dataCodewords, h]) fun i _ hi => by simp [dataCodewords, hi]

/-- Settles O21: the internal tests of RSENC do not fire in a consistent state (R306, R307). -/
theorem rsencResult : Obligations.RsencResult := by
  intro s hs h3
  have consistent := consistent_runRsenc hs
  have hdcw := dataCodewords_eq_dcw (hs.packed (by rw [h3]; decide))
  rcases runRsenc_cases s with
    ⟨hne, -⟩ | ⟨-, -, h⟩ | ⟨-, t, data, ecc, stream, ht, rfl, rfl, rfl, ⟨-, h⟩ | ⟨-, -, -, -, h⟩⟩
  · exact absurd h3 hne
  · exact absurd (h ▸ rfl) consistent.no_internal_fault.2
  · exact absurd (h ▸ rfl) consistent.no_internal_fault.1
  · rw [hdcw] at h
    exact ⟨t, _, ht, rfl, congrArg Host.Outcome.next h⟩

end Sys2Proof.Machine
end

section
/-! SUPPORT. The order of the codeword stream (R203, R204): interleaving reads the blocks at the pairs (codeword index, block) in
rising order, and each block's slice of DCW follows the one before. -/

namespace Sys2Proof.Machine

/-! ### The order of emission (R204) -/

/-- Codeword i of block b, for the pair (i, b). -/
def codewordAt (blocks : List (List Byte)) (p : Nat × Nat) : Option Byte := (blocks[p.2]?).bind (·[p.1]?)

/-- The pairs (i, b) of n columns at which there is a codeword, column by column. -/
def emissionOrder (n : Nat) (blocks : List (List Byte)) : List (Nat × Nat) :=
  (List.range n ×ˢ List.range blocks.length).filter fun p => (codewordAt blocks p).isSome

/-- Reading a list at indices up to its end or beyond gives the list. -/
theorem filterMap_getElem?_range {α : Type} {l : List α} {n : Nat} (h : l.length ≤ n) :
    (List.range n).filterMap (l[·]?) = l := by
  induction l generalizing n with
  | nil => simp
  | cons x l ih =>
    obtain ⟨n, rfl⟩ := Nat.exists_eq_succ_of_ne_zero (show n ≠ 0 by rintro rfl; simp at h)
    rw [List.range_succ_eq_map, List.filterMap_cons_some (List.getElem?_cons_zero), List.filterMap_map]
    exact congrArg (x :: ·) (ih (Nat.le_of_succ_le_succ h))

theorem column_eq_filterMap (i : Nat) (blocks : List (List Byte)) :
    column i blocks = ((List.range blocks.length).map fun b => (i, b)).filterMap (codewordAt blocks) := by
  have hblocks := filterMap_getElem?_range blocks.length.le_refl
  conv_lhs => rw [column, ← hblocks, List.filterMap_filterMap]
  rw [List.filterMap_map]
  rfl

/-- The stream holds the codewords at the pairs in the order of emission. -/
theorem map_some_interleaveBlocks (n : Nat) (blocks : List (List Byte)) :
    (interleaveBlocks n blocks).map some = (emissionOrder n blocks).map (codewordAt blocks) := by
  have hcolumns : interleaveBlocks n blocks =
      (List.range n ×ˢ List.range blocks.length).filterMap (codewordAt blocks) := by
    simp only [interleaveBlocks, column_eq_filterMap, SProd.sprod, List.product, List.filterMap_flatMap]
  rw [hcolumns, List.map_filterMap_some_eq_filter_map_isSome, List.filter_map, emissionOrder]
  rfl

theorem pairwise_emissionOrder (n : Nat) (blocks : List (List Byte)) : (emissionOrder n blocks).Pairwise EmittedBefore := by
  refine List.Pairwise.filter _ (List.pairwise_flatMap.2 ⟨fun i _ => List.pairwise_map.2 ?sameColumn, ?columns⟩)
  case sameColumn => exact List.pairwise_lt_range.imp fun hlt => .inr ⟨rfl, hlt⟩
  case columns =>
    refine List.pairwise_lt_range.imp fun hlt p hp q hq => .inl ?_
    obtain ⟨_, -, rfl⟩ := List.mem_map.1 hp
    obtain ⟨_, -, rfl⟩ := List.mem_map.1 hq
    exact hlt

/-- Every codeword of the blocks is emitted when the columns reach the end of the longest block. -/
theorem mem_emissionOrder {n : Nat} {blocks : List (List Byte)} {size : Nat → Nat}
    (hsize : ∀ b (hb : b < blocks.length), blocks[b].length = size b) (hn : ∀ b, b < blocks.length → size b ≤ n) (i b : Nat) :
    (i, b) ∈ emissionOrder n blocks ↔ b < blocks.length ∧ i < size b := by
  rw [emissionOrder, List.mem_filter, List.mem_product, List.mem_range, List.mem_range, codewordAt]
  by_cases hb : b < blocks.length
  · have hle := hn b hb
    simp only [List.getElem?_eq_getElem hb, Option.bind_some, isSome_getElem?, hsize b hb]
    omega
  · simp only [hb, and_false, false_and]

/-- Emitting column by column permutes the codewords. -/
theorem interleaveBlocks_perm {n : Nat} {blocks : List (List Byte)} (h : ∀ block ∈ blocks, block.length ≤ n) :
    (interleaveBlocks n blocks).Perm blocks.flatten := by
  induction blocks with
  | nil => simp [interleaveBlocks, column]
  | cons block blocks ih =>
    have hcolumn (i : Nat) : column i (block :: blocks) = (block[i]?).toList ++ column i blocks := by
      cases hi : block[i]? <;> simp [column, hi]
    have hfirst : (List.range n).flatMap (fun i => (block[i]?).toList) = block := by
      rw [← List.filterMap_eq_flatMap_toList, filterMap_getElem?_range (h block List.mem_cons_self)]
    rw [interleaveBlocks]
    simp only [hcolumn, List.flatten_cons]
    refine (List.flatMap_append_perm _ _ _).symm.trans ?_
    rw [hfirst]
    exact (ih fun b hb => h b (List.mem_cons_of_mem _ hb)).append_left block

/-! ### The blocks of DCW (R203) -/

theorem blockOffset_zero (t : BlkEntry) : blockOffset t 0 = 0 := by
  rw [blockOffset]
  split
  case isTrue => rw [Nat.zero_mul]
  case isFalse hn1 => rw [Nat.eq_zero_of_not_pos hn1, Nat.zero_sub, Nat.zero_mul, Nat.zero_mul]

/-- The blocks follow one another in DCW. -/
theorem blockOffset_succ (t : BlkEntry) (b : Nat) : blockOffset t (b + 1) = blockOffset t b + blockSize t b := by
  rw [blockOffset, blockOffset, blockSize]
  rcases Nat.lt_trichotomy (b + 1) t.n1 with h | h | h
  · rw [if_pos h, if_pos (by omega), if_pos (by omega), Nat.succ_mul]
  · rw [if_neg (by omega), if_pos (by omega), if_pos (by omega), h, Nat.sub_self, ← h]
    ring
  · rw [if_neg (by omega), if_neg (by omega), if_neg (by omega), Nat.sub_add_comm (by omega)]
    ring

/-- off(b) is the sizes of the blocks before b. -/
theorem blockOffset_eq_sum (t : BlkEntry) (b : Nat) : blockOffset t b = ((List.range b).map (blockSize t)).sum := by
  induction b with
  | zero => exact blockOffset_zero t
  | succ b ih =>
    rw [List.sum_range_succ, ← ih, blockOffset_succ]

theorem flatten_blockData (t : BlkEntry) (dcw : List Byte) (m : Nat) :
    ((List.range m).map (blockData t dcw)).flatten = dcw.take (blockOffset t m) := by
  induction m with
  | zero => rw [blockOffset_zero, List.take_zero, List.range_zero, List.map_nil, List.flatten_nil]
  | succ m ih =>
    rw [blockOffset_succ, List.take_add, ← ih, ← blockData, List.range_succ, List.map_append, List.flatten_append,
      List.map_singleton, List.flatten_singleton]

theorem flatten_dataBlocks {t : BlkEntry} {dcw : List Byte} (h : dcw.length = t.dcap) : (dataBlocks t dcw).flatten = dcw := by
  rw [dataBlocks, flatten_blockData, blockOffset_eq_sum, blockSizes_sum, ← h, List.take_length]

theorem dataBlocks_length (t : BlkEntry) (dcw : List Byte) : (dataBlocks t dcw).length = t.nblk := by simp [dataBlocks]

theorem dataBlocks_getElem (t : BlkEntry) (dcw : List Byte) {b : Nat} (hb : b < (dataBlocks t dcw).length) :
    (dataBlocks t dcw)[b] = blockData t dcw b := by simp [dataBlocks]

/-- Codeword i of data block b is DCW[off(b) + i]. -/
theorem blockData_getElem? (t : BlkEntry) (dcw : List Byte) {b i : Nat} (hi : i < blockSize t b) :
    (blockData t dcw b)[i]? = dcw[blockOffset t b + i]? := by
  rw [blockData, List.getElem?_take_of_lt hi, List.getElem?_drop]

/-- No block of the table has more data codewords than Kmax (R204). -/
theorem blockSize_le_maxBlockSize {v level : Nat} {t : BlkEntry} (ht : blktab v level = some t) {b : Nat} (hb : b < t.nblk) :
    blockSize t b ≤ maxBlockSize t := by
  have hok := blktab_ok ht
  simp only [blkEntryOk, Bool.and_eq_true, Bool.or_eq_true, decide_eq_true_iff] at hok
  obtain ⟨⟨⟨⟨⟨⟨-, hk⟩, -⟩, -⟩, -⟩, -⟩, -⟩ := hok
  rw [BlkEntry.nblk] at hb
  rw [blockSize, maxBlockSize]
  split <;> split <;> omega

/-- Settles O22: the two orders are those of emission, of the data blocks and of the ecc blocks. -/
theorem interleavingOrdersCodewords : Obligations.InterleavingOrdersCodewords := by
  intro v level t dcw ecc ht hdcw hnblk hecc
  have hlen := dataBlocks_length t dcw
  have hsize (b : Nat) (hb : b < (dataBlocks t dcw).length) : (dataBlocks t dcw)[b].length = blockSize t b := by
    rw [dataBlocks_getElem, blockData_length t dcw b (hlen ▸ hb) hdcw]
  have hmax (b : Nat) (hb : b < (dataBlocks t dcw).length) : blockSize t b ≤ maxBlockSize t :=
    blockSize_le_maxBlockSize ht (hlen ▸ hb)
  have hdata : ∀ block ∈ dataBlocks t dcw, block.length ≤ maxBlockSize t :=
    List.forall_mem_iff_getElem.2 fun b hb => hsize b hb ▸ hmax b hb
  have hmem := mem_emissionOrder hsize hmax
  refine ⟨interleaveBlocks (maxBlockSize t) (dataBlocks t dcw), interleaveBlocks t.e ecc,
    emissionOrder (maxBlockSize t) (dataBlocks t dcw), emissionOrder t.e ecc, rfl, ?dataPerm,
    interleaveBlocks_perm fun block hblock => (hecc block hblock).le, pairwise_emissionOrder _ _, pairwise_emissionOrder _ _,
    fun i b => ?dataMem, fun i b => ?eccMem, ?data, map_some_interleaveBlocks t.e ecc⟩
  case dataPerm => simpa only [flatten_dataBlocks hdcw] using interleaveBlocks_perm hdata
  case dataMem =>
    rw [hmem, hlen, BlkEntry.nblk, blockSize]
  case eccMem =>
    rw [mem_emissionOrder (fun b hb => hecc ecc[b] (List.getElem_mem hb)) fun _ _ => le_rfl, hnblk, BlkEntry.nblk]
  case data =>
    rw [map_some_interleaveBlocks]
    refine List.map_congr_left fun ⟨i, b⟩ hp => ?_
    obtain ⟨hb, hi⟩ := (hmem i b).1 hp
    rw [codewordAt, List.getElem?_eq_getElem hb, Option.bind_some, dataBlocks_getElem, blockData_getElem? t dcw hi,
      blockOffset_eq_sum]
    rfl

end Sys2Proof.Machine
end

section
/-! SUPPORT. The modules of the built matrix (R217 to R225). Two stamps of MBUILD at one module are equal, so the order of R227
does not matter: every stamp inside the matrix stands there. -/

namespace Sys2Proof.Machine

/-! ### The stamps of a finder and of an alignment pattern -/

/-- The stamp of a finder with its separator at (r, c): Light on the rings at distance 2 and 4 (R217, R218). -/
def finderStampAt (center : Int × Int) (r c : Int) : Stamp :=
  ⟨r, c, decide (ring (r - center.1) (c - center.2) ≠ 2 ∧ ring (r - center.1) (c - center.2) ≠ 4), .function⟩

/-- The stamp of an alignment pattern at (r, c): Light on the ring at distance 1 (R220). -/
def alignmentStampAt (center : Int × Int) (r c : Int) : Stamp :=
  ⟨r, c, decide (ring (r - center.1) (c - center.2) ≠ 1), .function⟩

theorem eq_finderStampAt {center : Int × Int} {st : Stamp} (h : st ∈ finderStamps center ++ separatorStamps center) :
    st = finderStampAt center st.row st.col := by
  rcases List.mem_append.1 h with h | h <;> obtain ⟨dr, dc, hr, hc, hst⟩ := mem_squareStamps.1 h
  · cases List.mem_singleton.1 hst
    have hring : ring dr dc ≠ 4 := by unfold ring; omega
    simp [finderStampAt, hring]
  · split at hst
    case isTrue hring =>
      cases List.mem_singleton.1 hst
      simp [finderStampAt, hring]
    case isFalse => cases hst

theorem eq_alignmentStampAt {center : Int × Int} {st : Stamp} (h : st ∈ alignmentStamps center) :
    st = alignmentStampAt center st.row st.col := by
  obtain ⟨dr, dc, -, -, hst⟩ := mem_squareStamps.1 h
  cases List.mem_singleton.1 hst
  simp [alignmentStampAt]

theorem finderStampAt_mem {center : Int × Int} {r c : Int} (h : Near 4 center r c) :
    finderStampAt center r c ∈ finderStamps center ++ separatorStamps center := by
  obtain ⟨st, hst, rfl, rfl⟩ := finder_covers h
  exact eq_finderStampAt hst ▸ hst

theorem alignmentStampAt_mem {center : Int × Int} {r c : Int} (h : Near 2 center r c) :
    alignmentStampAt center r c ∈ alignmentStamps center := by
  obtain ⟨hr, hc⟩ := h
  refine mem_squareStamps.2 ⟨r - center.1, c - center.2, by omega, by omega, ?_⟩
  simp [alignmentStampAt]

/-! ### Where the patterns lie -/

/-- The alignment centres are the pairs of coordinates off the three finders (R222). -/
theorem mem_alignmentCenters {n : Nat} {coords : List Nat} {center : Int × Int} :
    center ∈ alignmentCenters n coords ↔ ∃ ar ∈ coords, ∃ ac ∈ coords,
      (ar, ac) ∉ [(6, 6), (6, n - 7), (n - 7, 6)] ∧ center = ((ar : Int), (ac : Int)) := by
  simp only [alignmentCenters, List.bind_eq_flatMap, List.pure_def, List.mem_flatMap, List.mem_map, List.mem_filter,
    decide_eq_true_iff, List.mem_cons, Prod.mk.injEq, List.not_mem_nil, or_false]
  constructor
  · rintro ⟨ar, har, _, ⟨ac, ⟨hac, hcorner⟩, rfl⟩, rfl⟩
    exact ⟨ar, har, ac, hac, hcorner, rfl⟩
  · rintro ⟨ar, har, ac, hac, hcorner, rfl⟩
    exact ⟨ar, har, ac, ⟨ac, ⟨hac, hcorner⟩, rfl⟩, rfl⟩

/-- The alignment coordinates are even, and two of them are equal or their patterns are apart (R133, R221). -/
theorem alignmentCoordinates_apart : ∀ v ∈ List.range' 1 40, ∀ a ∈ alignmentCoordinates v,
    a % 2 = 0 ∧ ∀ b ∈ alignmentCoordinates v, a = b ∨ a + 5 ≤ b ∨ b + 5 ≤ a := by decide +kernel

/-- The kinds of Function stamps with what tells them apart (R217 to R223). -/
inductive FunctionStamp (v : Nat) (st : Stamp) : Prop
  | finder (center : Int × Int) (centers : center ∈ finderCenters (sideOf v))
      (member : st ∈ finderStamps center ++ separatorStamps center)
  | timing (member : st ∈ timingStamps (sideOf v))
  | alignment (center : Int × Int) (centers : center ∈ alignmentCenters (sideOf v) (alignmentCoordinates v))
      (member : st ∈ alignmentStamps center)
  | dark (eq : st = darkModule (sideOf v))

theorem functionStamp_or_reservation {v : Nat} {st : Stamp} (h : st ∈ allStamps v (sideOf v)) :
    FunctionStamp v st ∨ ∃ p ∈ formatPositions (sideOf v) ++ versionPositions v (sideOf v), st = reservation p := by
  rcases mem_allStamps.1 h with ⟨center, hcenter, h⟩ | h | ⟨center, hcenter, h⟩ | h | h
  · exact .inl (.finder center hcenter h)
  · exact .inl (.timing h)
  · exact .inl (.alignment center hcenter h)
  · exact .inl (.dark h)
  · exact .inr h

/-- Where an alignment pattern may be: even coordinates, each 6 or at least 18, clear of the finders (R221, R222). -/
def AlignmentPlace (n : Nat) (center : Int × Int) : Prop :=
  (center.1 % 2 = 0 ∧ center.2 % 2 = 0) ∧
  (center.1 = 6 ∨ (18 ≤ center.1 ∧ (center.1 = n - 7 ∨ center.1 + 14 ≤ n))) ∧
  (center.2 = 6 ∨ (18 ≤ center.2 ∧ (center.2 = n - 7 ∨ center.2 + 14 ≤ n))) ∧
  ¬(center.1 = 6 ∧ center.2 = 6) ∧ ¬(center.1 = 6 ∧ center.2 = n - 7) ∧ ¬(center.1 = n - 7 ∧ center.2 = 6)

theorem alignmentPlace {v : Nat} (h1 : 1 ≤ v) (h40 : v ≤ 40) {center : Int × Int}
    (h : center ∈ alignmentCenters (sideOf v) (alignmentCoordinates v)) : AlignmentPlace (sideOf v) center := by
  obtain ⟨ar, har, ac, hac, hcorner, rfl⟩ := mem_alignmentCenters.1 h
  have hv : v ∈ List.range' 1 40 := List.mem_range'_1.2 ⟨h1, by omega⟩
  have hside : sideOf v = 4 * v + 17 := rfl
  have := alignmentCoordinates_bounds v hv ar har
  have := alignmentCoordinates_bounds v hv ac hac
  have := (alignmentCoordinates_apart v hv ar har).1
  have := (alignmentCoordinates_apart v hv ac hac).1
  simp only [List.mem_cons, Prod.mk.injEq, List.not_mem_nil, or_false] at hcorner
  unfold AlignmentPlace
  dsimp only
  omega

/-! ### Two stamps at one module -/

/-- A finder with its separator fills a corner of the matrix (R217, R218). -/
theorem corner_of_mem_finder {n : Nat} {center : Int × Int} (hc : center ∈ finderCenters n) {st : Stamp}
    (h : st ∈ finderStamps center ++ separatorStamps center) :
    (st.row ≤ 7 ∧ st.col ≤ 7 ∧ center.1 = 3 ∧ center.2 = 3) ∨
    (st.row ≤ 7 ∧ n - 8 ≤ st.col ∧ center.1 = 3 ∧ center.2 = n - 4) ∨
    (n - 8 ≤ st.row ∧ st.col ≤ 7 ∧ center.1 = n - 4 ∧ center.2 = 3) := by
  have hnear := near_of_mem_finder h
  unfold Near at hnear
  simp only [finderCenters, List.mem_cons, List.not_mem_nil, or_false] at hc
  rcases hc with rfl | rfl | rfl <;> dsimp only at hnear ⊢ <;> omega

section
variable {v : Nat} (h1 : 1 ≤ v) (h40 : v ≤ 40) {a b : Stamp} (hrow : a.row = b.row) (hcol : a.col = b.col)
include h1 h40 hrow hcol

/-- No other pattern reaches into a finder or its separator (R217, R218). -/
theorem finder_stamp_agrees {center : Int × Int} (hc : center ∈ finderCenters (sideOf v))
    (ha : a ∈ finderStamps center ++ separatorStamps center) (hb : FunctionStamp v b) : a = b := by
  have hside : sideOf v = 4 * v + 17 := rfl
  have hcorner := corner_of_mem_finder hc ha
  cases hb with
  | finder other hother hb =>
    have hcorner' := corner_of_mem_finder hother hb
    have hcenter : center = other := Prod.ext (by omega) (by omega)
    rw [eq_finderStampAt ha, eq_finderStampAt hb, hcenter, hrow, hcol]
  | timing hb =>
    obtain ⟨i, hlo, hhi, rfl | rfl⟩ := mem_timingStamps.1 hb <;> dsimp only at hrow hcol <;> omega
  | alignment other hother hb =>
    have hplace := alignmentPlace h1 h40 hother
    have hnear := near_of_mem_alignment hb
    unfold AlignmentPlace at hplace
    unfold Near at hnear
    omega
  | dark hb =>
    subst hb
    dsimp only [darkModule] at hrow hcol
    omega

/-- No other pattern holds the dark module (R223). -/
theorem dark_stamp_agrees (ha : a = darkModule (sideOf v)) (hb : FunctionStamp v b) : a = b := by
  have hside : sideOf v = 4 * v + 17 := rfl
  cases hb with
  | finder center hc hb => exact (finder_stamp_agrees h1 h40 hrow.symm hcol.symm hc hb (.dark ha)).symm
  | timing hb =>
    subst ha
    dsimp only [darkModule] at hrow hcol
    obtain ⟨i, hlo, hhi, rfl | rfl⟩ := mem_timingStamps.1 hb <;> dsimp only at hrow hcol <;> omega
  | alignment center hc hb =>
    subst ha
    dsimp only [darkModule] at hrow hcol
    have hplace := alignmentPlace h1 h40 hc
    have hnear := near_of_mem_alignment hb
    unfold AlignmentPlace at hplace
    unfold Near at hnear
    omega
  | dark hb => rw [ha, hb]

/-- Where an alignment pattern crosses a timing pattern, both have the same colour: its centre is at even coordinates (R219,
R220, R222). -/
theorem timing_alignment_agree (ha : a ∈ timingStamps (sideOf v)) {center : Int × Int}
    (hc : center ∈ alignmentCenters (sideOf v) (alignmentCoordinates v)) (hb : b ∈ alignmentStamps center) : a = b := by
  have hplace := alignmentPlace h1 h40 hc
  have hnear := near_of_mem_alignment hb
  unfold AlignmentPlace at hplace
  unfold Near at hnear
  rw [eq_alignmentStampAt hb, ← hrow, ← hcol, alignmentStampAt]
  rw [← hrow, ← hcol] at hnear
  obtain ⟨i, hlo, hhi, rfl | rfl⟩ := mem_timingStamps.1 ha <;> dsimp only at hnear ⊢ <;> unfold ring
  · have hc6 : center.1 = 6 := by omega
    simp only [Stamp.mk.injEq, true_and, and_true, decide_eq_decide]
    omega
  · have hc6 : center.2 = 6 := by omega
    simp only [Stamp.mk.injEq, true_and, and_true, decide_eq_decide]
    omega

/-- Alignment patterns are apart (R221, R222). -/
theorem alignment_stamps_agree {c d : Int × Int} (hc : c ∈ alignmentCenters (sideOf v) (alignmentCoordinates v))
    (ha : a ∈ alignmentStamps c) (hd : d ∈ alignmentCenters (sideOf v) (alignmentCoordinates v))
    (hb : b ∈ alignmentStamps d) : a = b := by
  have hv : v ∈ List.range' 1 40 := List.mem_range'_1.2 ⟨h1, by omega⟩
  have hcenter : c = d := by
    have hna := near_of_mem_alignment ha
    have hnb := near_of_mem_alignment hb
    unfold Near at hna hnb
    obtain ⟨ar, har, ac, hac, -, rfl⟩ := mem_alignmentCenters.1 hc
    obtain ⟨br, hbr, bc, hbc, -, rfl⟩ := mem_alignmentCenters.1 hd
    have := (alignmentCoordinates_apart v hv ar har).2 br hbr
    have := (alignmentCoordinates_apart v hv ac hac).2 bc hbc
    rw [Prod.mk.injEq]
    dsimp only at hna hnb
    omega
  rw [eq_alignmentStampAt ha, eq_alignmentStampAt hb, hcenter, hrow, hcol]

theorem function_stamps_agree (ha : FunctionStamp v a) (hb : FunctionStamp v b) : a = b := by
  cases ha with
  | finder center hc ha => exact finder_stamp_agrees h1 h40 hrow hcol hc ha hb
  | dark ha => exact dark_stamp_agrees h1 h40 hrow hcol ha hb
  | timing ha => cases hb with
    | finder center hc hb => exact (finder_stamp_agrees h1 h40 hrow.symm hcol.symm hc hb (.timing ha)).symm
    | dark hb => exact (dark_stamp_agrees h1 h40 hrow.symm hcol.symm hb (.timing ha)).symm
    | timing hb =>
      obtain ⟨i, hlo, -, rfl | rfl⟩ := mem_timingStamps.1 ha <;>
        obtain ⟨j, hlo', -, rfl | rfl⟩ := mem_timingStamps.1 hb <;> dsimp only at hrow hcol
      · rw [hcol]
      · omega
      · omega
      · rw [hrow]
    | alignment d hd hb => exact timing_alignment_agree h1 h40 hrow hcol ha hd hb
  | alignment c hc ha => cases hb with
    | finder d hd hb => exact (finder_stamp_agrees h1 h40 hrow.symm hcol.symm hd hb (.alignment c hc ha)).symm
    | dark hb => exact (dark_stamp_agrees h1 h40 hrow.symm hcol.symm hb (.alignment c hc ha)).symm
    | timing hb => exact (timing_alignment_agree h1 h40 hrow.symm hcol.symm hb hc ha).symm
    | alignment d hd hb => exact alignment_stamps_agree h1 h40 hrow hcol hc ha hd hb

/-- No other stamp is at a position of format or version information (R224, R225). -/
theorem reservation_agrees (ha : ∃ p ∈ formatPositions (sideOf v) ++ versionPositions v (sideOf v), a = reservation p)
    (hb : b ∈ allStamps v (sideOf v)) : a = b := by
  obtain ⟨p, hp, rfl⟩ := ha
  obtain ⟨q, -, rfl⟩ := eq_reservation_of_format hb (stamp_at_infoPosition h1 h40 hp hb hrow.symm hcol.symm)
  rw [show p = q from Prod.ext (Int.ofNat.inj hrow) (Int.ofNat.inj hcol)]

/-- Two stamps at one module are equal (R227). -/
theorem stamps_agree (ha : a ∈ allStamps v (sideOf v)) (hb : b ∈ allStamps v (sideOf v)) : a = b := by
  rcases functionStamp_or_reservation ha with ha' | ha'
  · rcases functionStamp_or_reservation hb with hb' | hb'
    · exact function_stamps_agree h1 h40 hrow hcol ha' hb'
    · exact (reservation_agrees h1 h40 hrow.symm hcol.symm hb' ha).symm
  · exact reservation_agrees h1 h40 hrow hcol ha' hb

end

/-- Every stamp inside the matrix stands in the built grid (R216, R227). -/
theorem gridAt_builtGrid_of_mem {v : Nat} (h1 : 1 ≤ v) (h40 : v ≤ 40) {r c : Nat} (hr : r < sideOf v) (hc : c < sideOf v)
    {st : Stamp} (hst : st ∈ allStamps v (sideOf v)) (hrow : st.row = r) (hcol : st.col = c) :
    gridAt (builtGrid v (sideOf v)) r c = some ⟨st.dark, st.prov⟩ := by
  have hfound : ((allStamps v (sideOf v)).find? (Stamp.isAt r c)).isSome = true :=
    List.find?_isSome.2 ⟨st, hst, decide_eq_true ⟨hrow, hcol⟩⟩
  obtain ⟨first, hfirst⟩ := Option.isSome_iff_exists.1 hfound
  have hat : Stamp.isAt r c first = true := List.find?_some hfirst
  obtain ⟨hrow', hcol'⟩ := of_decide_eq_true hat
  obtain rfl := stamps_agree h1 h40 (hrow.trans hrow'.symm) (hcol.trans hcol'.symm) hst (List.mem_of_find?_eq_some hfirst)
  rw [gridAt_builtGrid v hr hc, hfirst]

/-! ### The obligations -/

/-- A finder and its separator in the built grid (R217, R218). -/
theorem gridAt_builtGrid_finder {v : Nat} (h1 : 1 ≤ v) (h40 : v ≤ 40) {center : Int × Int}
    (hcenter : center ∈ finderCenters (sideOf v)) {r c : Nat} (hr : r < sideOf v) (hc : c < sideOf v)
    (hnear : Near 4 center r c) : gridAt (builtGrid v (sideOf v)) r c =
      some ⟨decide (ring (r - center.1) (c - center.2) ≠ 2 ∧ ring (r - center.1) (c - center.2) ≠ 4), .function⟩ :=
  gridAt_builtGrid_of_mem h1 h40 hr hc (mem_allStamps.2 (.inl ⟨center, hcenter, finderStampAt_mem hnear⟩)) rfl rfl

/-- A separator module of the built grid (R218). -/
theorem gridAt_builtGrid_separator {v : Nat} (h1 : 1 ≤ v) (h40 : v ≤ 40) {center : Int × Int}
    (hcenter : center ∈ finderCenters (sideOf v)) {r c : Nat} (hr : r < sideOf v) (hc : c < sideOf v)
    (hring : ring (r - center.1) (c - center.2) = 4) : gridAt (builtGrid v (sideOf v)) r c = some ⟨false, .function⟩ := by
  have hnear : Near 4 center r c := by
    unfold ring at hring
    unfold Near
    omega
  rw [gridAt_builtGrid_finder h1 h40 hcenter hr hc hnear, hring]
  rfl

/-- An alignment pattern in the built grid (R220, R222). -/
theorem gridAt_builtGrid_alignment {v : Nat} (h1 : 1 ≤ v) (h40 : v ≤ 40) {center : Int × Int}
    (hcenter : center ∈ alignmentCenters (sideOf v) (alignmentCoordinates v)) {r c : Nat} (hnear : Near 2 center r c) :
    gridAt (builtGrid v (sideOf v)) r c = some ⟨decide (ring (r - center.1) (c - center.2) ≠ 1), .function⟩ := by
  have hside : sideOf v = 4 * v + 17 := rfl
  have hplace := alignmentPlace h1 h40 hcenter
  unfold AlignmentPlace at hplace
  have ⟨hr, hc⟩ := hnear
  exact gridAt_builtGrid_of_mem h1 h40 (by omega) (by omega)
    (mem_allStamps.2 (.inr (.inr (.inl ⟨center, hcenter, alignmentStampAt_mem hnear⟩)))) rfl rfl

/-- The picture of R217 is Light on the ring at distance 2. -/
theorem finderPicture_eq_some {i j : Nat} {d : Bool} (h : (finderPicture[i]?).bind (·[j]?) = some d) :
    i < 7 ∧ j < 7 ∧ d = decide (ring (i - 3) (j - 3) ≠ 2 ∧ ring (i - 3) (j - 3) ≠ 4) := by
  have hpicture : ∀ i : Nat, i < 7 → ∀ j : Nat, j < 7 → (finderPicture[i]?).bind (·[j]?) =
      some (decide (ring (i - 3) (j - 3) ≠ 2 ∧ ring (i - 3) (j - 3) ≠ 4)) := by decide
  have hrows : ∀ row ∈ finderPicture, row.length = 7 := by decide
  obtain ⟨row, hrow, hcell⟩ := Option.bind_eq_some_iff.1 h
  obtain ⟨hi, -⟩ := List.getElem?_eq_some_iff.1 hrow
  obtain ⟨hj, -⟩ := List.getElem?_eq_some_iff.1 hcell
  rw [hrows row (List.mem_of_getElem? hrow)] at hj
  exact ⟨hi, hj, Option.some.inj (h.symm.trans (hpicture i hi j hj))⟩

/-- Settles O32: each finder stands in the built grid. -/
theorem builtGridHasFinders : Obligations.BuiltGridHasFinders := by
  intro v h1 h40 corner hcorner i j d hd
  have hside : sideOf v = 4 * v + 17 := rfl
  obtain ⟨hi, hj, rfl⟩ := finderPicture_eq_some hd
  simp only [List.mem_cons, List.not_mem_nil, or_false] at hcorner
  have hcenter : ((corner.1 : Int) + 3, (corner.2 : Int) + 3) ∈ finderCenters (sideOf v) := by
    simp only [finderCenters, List.mem_cons, Prod.mk.injEq, List.not_mem_nil, or_false]
    rcases hcorner with rfl | rfl | rfl <;> dsimp only <;> omega
  have hbound : corner.1 + i < sideOf v ∧ corner.2 + j < sideOf v := by
    rcases hcorner with rfl | rfl | rfl <;> dsimp only <;> omega
  rw [gridAt_builtGrid_finder h1 h40 hcenter hbound.1 hbound.2 (by unfold Near; dsimp only; omega)]
  simp only [Nat.cast_add, add_sub_add_left_eq_sub]

/-- Settles O33: each of the patterns stands in the built grid. -/
theorem builtGridHasFunctionPatterns : Obligations.BuiltGridHasFunctionPatterns := by
  rintro v n h1 h40 rfl
  have hside : sideOf v = 4 * v + 17 := rfl
  refine ⟨fun k hk p hp => ?separators, fun i hlo hhi => ?timing, fun ar har ac hac hcorner i hi j hj => ?alignment, ?dark⟩
  case separators =>
    have hplace : p.1 < sideOf v ∧ p.2 < sideOf v ∧
        ∃ center ∈ finderCenters (sideOf v), ring (p.1 - center.1) (p.2 - center.2) = 4 := by
      simp only [finderCenters, List.exists_mem_cons_iff, List.not_mem_nil, false_and, exists_false, or_false, ring]
      simp only [List.mem_cons, List.not_mem_nil, or_false] at hp
      rcases hp with rfl | rfl | rfl | rfl | rfl | rfl <;> dsimp only <;> omega
    obtain ⟨hr, hc, center, hcenter, hring⟩ := hplace
    exact gridAt_builtGrid_separator h1 h40 hcenter hr hc hring
  case timing =>
    have hstamp (st : Stamp) (hst : st = ⟨6, i, (i : Int) % 2 = 0, .function⟩ ∨ st = ⟨i, 6, (i : Int) % 2 = 0, .function⟩) :
        st ∈ allStamps v (sideOf v) :=
      mem_allStamps.2 (.inr (.inl (mem_timingStamps.2 ⟨i, hlo, by omega, hst⟩)))
    have hparity : decide ((i : Int) % 2 = 0) = decide (i % 2 = 0) := decide_eq_decide.2 (by omega)
    rw [← hparity]
    exact ⟨gridAt_builtGrid_of_mem h1 h40 (by omega) (by omega) (hstamp _ (.inl rfl)) rfl rfl,
      gridAt_builtGrid_of_mem h1 h40 (by omega) (by omega) (hstamp _ (.inr rfl)) rfl rfl⟩
  case alignment =>
    have hcenter := mem_alignmentCenters.2 ⟨ar, har, ac, hac, hcorner, rfl⟩
    have hplace := alignmentPlace h1 h40 hcenter
    unfold AlignmentPlace at hplace
    dsimp only at hplace
    rw [gridAt_builtGrid_alignment h1 h40 hcenter (by unfold Near; dsimp only; omega)]
    refine congrArg (fun dark => some (QrModule.mk dark .function)) (decide_eq_decide.2 ?_)
    unfold ring
    dsimp only
    omega
  case dark =>
    exact gridAt_builtGrid_of_mem h1 h40 (by omega) (by omega) (mem_allStamps.2 (.inr (.inr (.inr (.inl rfl)))))
      (by rw [darkModule]; dsimp only; omega) rfl

/-- Settles O34: every reservation stands in the built grid, and there are no other Format modules. -/
theorem builtGridReservesInformationModules : Obligations.BuiltGridReservesInformationModules := by
  rintro v n h1 h40 rfl
  refine ⟨fun p hp => ?_, fun r c m hm hformat =>
    (provAt_builtGrid_eq_format_iff h1 h40).1 (provAt_eq_some.2 ⟨m, hm, hformat⟩)⟩
  obtain ⟨m, hm, -⟩ := provAt_eq_some.1 (provAt_builtGrid_infoPosition h1 h40 hp)
  obtain ⟨hr, hc⟩ := (square_builtGrid ..).at_bounds hm
  exact gridAt_builtGrid_of_mem h1 h40 hr hc (mem_allStamps.2 (.inr (.inr (.inr (.inr ⟨p, hp, rfl⟩))))) rfl rfl

end Sys2Proof.Machine
end

section
/-! SUPPORT. The commands MBUILD and MPLACE (R228, R234), and the modules along the traversal (R232, R233). -/

namespace Sys2Proof.Machine

/-- Settles O31: the internal tests of MBUILD do not fire in a consistent state (R306, R307). -/
theorem mbuildResult : Obligations.MbuildResult := by
  intro s hs h4
  obtain ⟨h1, h40, hside⟩ := hs.side_eq (by rw [h4]; decide)
  have hraw := rawmod_eq_dataCount h1 h40
  rcases runMbuild_cases s with ⟨hne, -⟩ | ⟨-, hnone | hne, -⟩ | ⟨-, -, hne, -⟩ | ⟨-, -, -, h⟩
  · exact absurd h4 hne
  · exact absurd (hraw.symm.trans hnone) nofun
  · exact absurd hside hne
  · exact absurd (hside ▸ hraw.symm) hne
  · rw [hside] at h
    exact congrArg Host.Outcome.next h

/-- Settles O36: the side of every version is odd. -/
theorem traversalVisitsEachModuleOnce : Obligations.TraversalVisitsEachModuleOnce := by
  intro v
  obtain ⟨hmem, hnodup⟩ := traversal_spec (n := sideOf v) (by unfold sideOf; omega) (by unfold sideOf; omega)
  exact ⟨hnodup, hmem⟩

/-! ### Which module takes which bit (R231, R232) -/

/-- The positions of a list at which a Data module stands, in order. -/
def dataAlong (g : Grid) (positions : List (Nat × Nat)) : List (Nat × Nat) :=
  positions.filter fun p => provAt g p = some .data

theorem dataPositions_eq (g : Grid) (n : Nat) : dataPositions g n = dataAlong g (traversal n) := by
  refine List.filter_congr fun p _ => ?_
  rw [provAt]
  cases gridAt g p.1 p.2 <;> simp

theorem dataAlong_cons_data {p : Nat × Nat} {g : Grid} (h : provAt g p = some .data) (rest : List (Nat × Nat)) :
    dataAlong g (p :: rest) = p :: dataAlong g rest :=
  List.filter_cons_of_pos (by simpa using h)

theorem dataAlong_cons_other {p : Nat × Nat} {g : Grid} (h : provAt g p ≠ some .data) (rest : List (Nat × Nat)) :
    dataAlong g (p :: rest) = dataAlong g rest :=
  List.filter_cons_of_neg (by simpa using h)

theorem Recoloured.dataAlong_eq {p : Provenance} {g g' : Grid} (h : Recoloured p g g') : dataAlong g' = dataAlong g := by
  unfold dataAlong
  rw [h.provAt_eq]

/-- A Data module takes the next bit (R232). -/
theorem placeBits_cons_data {p : Nat × Nat} {g : Grid} (h : provAt g p = some .data) (rest : List (Nat × Nat))
    (bits : List Bool) (j : Nat) : placeBits (p :: rest) bits g j =
      placeBits rest bits.tail (gridSet g p.1 p.2 ⟨nextBit bits, .data⟩) (j + 1) := by
  obtain ⟨m, hm, hdata⟩ := provAt_eq_some.1 h
  rw [placeBits, hm]
  simp only [hdata, if_true]

/-- Any other position is passed over (R232). -/
theorem placeBits_cons_other {p : Nat × Nat} {g : Grid} (h : provAt g p ≠ some .data) (rest : List (Nat × Nat))
    (bits : List Bool) (j : Nat) : placeBits (p :: rest) bits g j = placeBits rest bits g j := by
  rw [placeBits]
  rcases hm : gridAt g p.1 p.2 with _ | m
  · rfl
  · exact if_neg fun hdata => h (provAt_eq_some.2 ⟨m, hm, hdata⟩)

theorem gridSet_data {p : Nat × Nat} {g : Grid} (h : provAt g p = some .data) (dark : Bool) :
    Recoloured .data g (gridSet g p.1 p.2 ⟨dark, .data⟩) ∧
      gridAt (gridSet g p.1 p.2 ⟨dark, .data⟩) p.1 p.2 = some ⟨dark, .data⟩ := by
  obtain ⟨m, hm, hdata⟩ := provAt_eq_some.1 h
  have hset := Recoloured.gridSet hm hdata dark
  rw [hdata] at hset
  exact ⟨hset, gridAt_gridSet_same _ hm⟩

/-- Placement changes no module but the Data modules along the positions (R232). -/
theorem gridAt_placeBits_of_notMem {positions : List (Nat × Nat)} (bits : List Bool) {g : Grid} (j : Nat) {q : Nat × Nat}
    (hq : q ∉ dataAlong g positions) : gridAt (placeBits positions bits g j).1 q.1 q.2 = gridAt g q.1 q.2 := by
  induction positions generalizing bits g j with
  | nil => rfl
  | cons p rest ih =>
    by_cases hp : provAt g p = some .data
    · have hset := (gridSet_data hp (nextBit bits)).1
      rw [dataAlong_cons_data hp, List.mem_cons, not_or] at hq
      rw [placeBits_cons_data hp, ih _ _ (hset.dataAlong_eq ▸ hq.2), gridAt_gridSet_other g _ hq.1]
    · rw [dataAlong_cons_other hp] at hq
      rw [placeBits_cons_other hp, ih _ _ hq]

/-- The k-th Data module along the positions takes bit k, 0 after the end (R231, R232). -/
theorem gridAt_placeBits_getElem? {positions : List (Nat × Nat)} (hnodup : positions.Nodup) (bits : List Bool) {g : Grid}
    (j : Nat) {k : Nat} {q : Nat × Nat} (hq : (dataAlong g positions)[k]? = some q) :
    gridAt (placeBits positions bits g j).1 q.1 q.2 = some ⟨(bits[k]?).getD false, .data⟩ := by
  induction positions generalizing bits g j k with
  | nil => cases hq
  | cons p rest ih =>
    obtain ⟨hfresh, hrest⟩ := List.nodup_cons.1 hnodup
    by_cases hp : provAt g p = some .data
    · obtain ⟨hset, hsame⟩ := gridSet_data hp (nextBit bits)
      rw [dataAlong_cons_data hp, ← hset.dataAlong_eq] at hq
      rw [placeBits_cons_data hp]
      cases k with
      | zero =>
        cases hq
        rw [gridAt_placeBits_of_notMem _ _ fun hmem => hfresh (List.mem_of_mem_filter hmem), hsame, nextBit,
          List.headD_eq_head?_getD, List.head?_eq_getElem?]
      | succ k => rw [ih hrest _ _ hq, List.getElem?_tail]
    · rw [dataAlong_cons_other hp] at hq
      rw [placeBits_cons_other hp, ih hrest _ _ hq]

/-- There are RAWMOD Data modules along the traversal (R133, R229, R233). -/
theorem Consistent.rawmod_eq {s : State} (hs : Consistent s) (h5 : 5 ≤ s.stage.code) :
    rawmod s.ver.toNat = some (dataPositions s.modules s.side.toNat).length := by
  obtain ⟨h1, h40, hside⟩ := hs.side_eq (by omega)
  have hn : sideOf s.ver.toNat = 4 * s.ver.toNat + 17 := rfl
  rw [rawmod_eq_dataCount h1 h40, dataPositions_eq, dataAlong, ← List.countP_eq_length_filter, provAt_congr (hs.built h5),
    hside, countP_traversal (square_builtGrid ..) (by omega) (by omega) (provAt_builtGrid_column6 _ (by omega))]

/-- The codewords that the commands read are those stored (R44). -/
theorem codewords_eq_cw {s : State} (h : s.cw.length = s.clen.toNat) : codewords s = s.cw :=
  List.ext_getElem (by simp [codewords, h]) fun q _ hq => by simp [codewords, hq]

/-- In a consistent state at stage 5 MPLACE places the stream (R234): its internal tests do not fire (R306). -/
theorem exec_mplace_of_consistent {s : State} (hs : Consistent s) (h5 : s.stage = .built) :
    exec .mplace s = .next { s with
      modules := (placeBits (traversal s.side.toNat) (streamBits s.cw) s.modules 0).1, stage := .placed } := by
  have code : s.stage.code = 5 := by rw [h5]; rfl
  obtain ⟨h1, h40, -⟩ := hs.side_eq (by omega)
  rcases runMplace_cases s with ⟨hne, -⟩ | ⟨-, hnone, -⟩ | ⟨-, remainder, placed, hrem, hplaced, hcase⟩
  · exact absurd h5 hne
  · rw [rembits, rawmod_eq_dataCount h1 h40] at hnone
    cases hnone
  · rw [gridOf_eq_modules (hs.square (by omega)), codewords_eq_cw (hs.coded (by omega))] at hplaced
    subst hplaced
    rcases hcase with ⟨hfault, -⟩ | ⟨-, h⟩
    · exact absurd (hs.placed_count (by omega) hrem _) hfault
    · exact congrArg Host.Outcome.next h

/-- Settles O37: placement along the traversal, which meets no module twice. -/
theorem mplaceResult : Obligations.MplaceResult := by
  intro s hs h5
  have code : s.stage.code = 5 := by rw [h5]; rfl
  have hnodup : (traversal s.side.toNat).Nodup := by
    obtain ⟨-, -, hside⟩ := hs.side_eq (by omega)
    exact hside ▸ (traversalVisitsEachModuleOnce s.ver.toNat).1
  refine ⟨_, _, exec_mplace_of_consistent hs h5, rfl, rfl, hs.rawmod_eq (by omega), fun j p hp => ?_, fun r c hrc => ?_⟩
  · exact gridAt_placeBits_getElem? hnodup _ 0 (dataPositions_eq .. ▸ hp)
  · exact gridAt_placeBits_of_notMem (q := (r, c)) _ 0 (dataPositions_eq .. ▸ hrc)

end Sys2Proof.Machine
end

section
/-! SUPPORT. The symbol that a successful ENCODE leaves (R281, R299). -/

namespace Sys2Proof.Machine

/-- From stage 5 on the matrix has its three finders, as placement, masking and FORMAT keep Function modules (R217, R234, R247,
R270). -/
theorem Consistent.hasFinders {s : State} (hs : Consistent s) (h5 : 5 ≤ s.stage.code) :
    HasFinders s.modules s.side.toNat := by
  obtain ⟨h1, h40, hside⟩ := hs.side_eq (by omega)
  intro corner hcorner i j d hd
  refine hs.function_kept h5 _ _ _ ?_ rfl
  rw [hside] at hcorner ⊢
  exact builtGridHasFinders _ h1 h40 corner hcorner i j d hd

/-- A stage command after VSELECT keeps the version unless it raises (R30). -/
def KeepsVersion (f : State → State) : Prop := ∀ s, (f s).errcode = .noError → (f s).ver = s.ver

theorem keepsVersion_laterStages : ∀ f ∈ laterStages, KeepsVersion f := by
  simp only [laterStages, List.forall_mem_cons, List.not_mem_nil, false_implies, implies_true, and_true]
  refine ⟨fun s => ?pack, fun s => ?rsenc, fun s => ?mbuild, fun s => ?mplace, fun s => ?mselect, fun s => ?format⟩
  case pack =>
    rcases runPack_cases s with ⟨-, h⟩ | ⟨-, -, h⟩ | ⟨-, -, -, -, h⟩ <;> rw [h]
    · exact nofun
    · exact nofun
    · exact fun _ => rfl
  case rsenc =>
    rcases runRsenc_cases s with ⟨-, h⟩ | ⟨-, -, h⟩ |
        ⟨-, t, data, ecc, stream, -, -, -, -, ⟨-, h⟩ | ⟨-, -, -, -, h⟩⟩ <;> rw [h]
    · exact nofun
    · exact nofun
    · exact nofun
    · exact fun _ => rfl
  case mbuild =>
    rcases runMbuild_cases s with ⟨-, h⟩ | ⟨-, -, h⟩ | ⟨-, -, -, h⟩ | ⟨-, -, -, h⟩ <;> rw [h]
    · exact nofun
    · exact nofun
    · exact nofun
    · exact fun _ => rfl
  case mplace =>
    rcases runMplace_cases s with ⟨-, h⟩ | ⟨-, -, h⟩ | ⟨-, remainder, placed, -, -, ⟨-, h⟩ | ⟨-, h⟩⟩ <;> rw [h]
    · exact nofun
    · exact nofun
    · exact nofun
    · exact fun _ => rfl
  case mselect =>
    rcases runMselect_cases s with ⟨-, h⟩ | ⟨-, scores, w, -, -, h⟩ <;> rw [h]
    · exact nofun
    · exact fun _ => rfl
  case format =>
    rcases runFormat_cases s with ⟨-, h⟩ | ⟨-, written, -, ⟨-, h⟩ | ⟨g, -, h⟩⟩ <;> rw [h]
    · exact nofun
    · exact nofun
    · exact fun _ => rfl

theorem keepsVersion_runStages {stages : List (State → State)} (h : ∀ f ∈ stages, KeepsVersion f) (s : State)
    (hs : s.errcode = .noError) : (runStages stages s).errcode = .noError → (runStages stages s).ver = s.ver :=
  runStages_keeps (P := fun t => t.errcode = .noError → t.ver = s.ver) stages
    (fun f hf t ht hok hfok => (h f hf t hfok).trans (ht hok)) s (fun _ => rfl) hs

/-- A successful ENCODE ends with the chosen version in VER (R138, R299). -/
theorem chosen_runEncode {s : State} (hfinal : (runEncode s).stage = .final) :
    s.tlen.toNat ≤ 8192 ∧ s.fver.toNat ≤ 40 ∧ Chosen s (inputSegments s) (runEncode s).ver.toNat := by
  rcases runEncode_cases s with ⟨-, h⟩ | ⟨htlen, hfver, ⟨-, h⟩ | ⟨v, hv, hvselect, h⟩⟩
  · rw [h] at hfinal
    cases hfinal
  · rw [h] at hfinal
    cases hfinal
  · obtain ⟨-, hok, -⟩ := runEncode_final_of_chosen htlen hfver hv
    obtain ⟨t, total, bits, ht, htotal, -, hle, haccept⟩ := acceptVersion_of_fits (s := encodeSegmented s) hv.1
    have hver : (runVselect (encodeSegmented s)).ver.toNat = v := by
      rw [hvselect, haccept]
      exact (accepted_registers ht htotal hle).1
    have hkept := keepsVersion_runStages keepsVersion_laterStages (runVselect (encodeSegmented s))
      (by rw [hvselect, haccept]; rfl) (h ▸ hok)
    refine ⟨htlen, hfver, ?_⟩
    rwa [h, hkept, hver]

/-- Settles O48: VSELECT takes the chosen version, and a consistent state at stage 8 has the matrix of that version. -/
theorem encodedSymbolShape : Obligations.EncodedSymbolShape := by
  rintro s _ ⟨⟩ hfinal
  obtain ⟨htlen, hfver, hv⟩ := chosen_runEncode hfinal
  obtain ⟨hs, -, -⟩ := runEncode_final_of_chosen htlen hfver hv
  have code : (withMemory (canonical s.mem) (runEncode s)).stage.code = 8 := by rw [withMemory_stage, hfinal]; rfl
  obtain ⟨-, -, hside⟩ := hs.side_eq (by omega)
  obtain ⟨hrows, hcols⟩ := hs.square (by omega)
  exact ⟨hside, hrows, hcols, hs.hasFinders (by omega), hv, (runEncode_frame s).inputs⟩

end Sys2Proof.Machine
end

section
/-! SUPPORT. Masking is an involution (R247); the bounds of the four penalties of a square matrix (R259); and the mask that
MSELECT takes (R255, R260). -/

namespace Sys2Proof.Machine

/-! ### Masking twice (R247) -/

theorem maskModule_maskModule (m : Fin 8) (r c : Nat) (x : QrModule) :
    maskModule m r c (maskModule m r c x) = x := by
  by_cases h : x.prov = .data ∧ maskBit m r c = true
  · obtain ⟨hdata, hbit⟩ := h
    cases x
    simp_all [maskModule]
  · rw [maskModule, maskModule, if_neg h, if_neg h]

theorem maskRow_maskRow (m : Fin 8) (r c : Nat) (row : List QrModule) : maskRow m r c (maskRow m r c row) = row := by
  refine List.ext_getElem? fun i => ?_
  cases h : row[i]? <;> simp [maskRow_getElem?, maskModule_maskModule, h]

theorem masked_masked (g : Grid) (m : Fin 8) : masked (masked g m) m = g := by
  refine List.ext_getElem? fun i => ?_
  cases h : g[i]? <;> simp [masked, maskRows_getElem?, maskRow_maskRow, h]

/-- Settles O38. -/
theorem maskingInvertsDataModules : Obligations.MaskingInvertsDataModules := fun g m =>
  ⟨gridAt_masked g m, masked_masked g m⟩

/-! ### The lines of a square (R249) -/

/-- The columns of a nonempty rectangle have its rows' number as their length, and are as many as a row is long. -/
theorem transpose_lengths {k : Nat} (t : List (List Bool)) (hne : t ≠ []) (hrows : ∀ row ∈ t, row.length = k) :
    (transpose t).length = k ∧ ∀ column ∈ transpose t, column.length = t.length := by
  induction t using transpose.induct with
  | case1 => exact absurd rfl hne
  | case2 row =>
    rw [transpose]
    exact ⟨by simpa using hrows, List.forall_mem_map.2 fun _ _ => rfl⟩
  | case3 row rest hrest ih =>
    obtain ⟨hrow, hrows⟩ := List.forall_mem_cons.1 hrows
    obtain ⟨hlen, hcols⟩ := ih hrest hrows
    rw [transpose.eq_3 _ _ hrest]
    refine ⟨by rw [List.length_zipWith, hrow, hlen, Nat.min_self], fun column hcol => ?_⟩
    obtain ⟨i, hi, rfl⟩ := List.getElem_of_mem hcol
    simp [hcols]

/-- An n × n square has 2·n lines of n modules (R249). -/
theorem linesOf_lengths {n : Nat} {t : List (List Bool)} (hlen : t.length = n) (hrows : ∀ row ∈ t, row.length = n) :
    (linesOf t).length = 2 * n ∧ ∀ line ∈ linesOf t, line.length = n := by
  rcases eq_or_ne t [] with rfl | hne
  · subst hlen
    exact ⟨rfl, nofun⟩
  · obtain ⟨hcount, hcols⟩ := transpose_lengths t hne hrows
    refine ⟨by rw [linesOf, List.length_append, hlen, hcount, Nat.two_mul], fun line hline => ?_⟩
    rcases List.mem_append.1 hline with h | h
    · exact hrows line h
    · rw [hcols line h, hlen]

/-! ### What one line adds (R250, R252) -/

theorem runPenalty_le (len : Nat) : runPenalty len ≤ len - 2 := by
  rw [runPenalty]
  split <;> omega

/-- The runs of a line of L modules add at most L − 2: a run adds at most its length less 2. -/
theorem sum_runPenalty_runsFrom_le (colour : Bool) (len : Nat) (line : List Bool) :
    ((runsFrom colour len line).map runPenalty).sum ≤ len + line.length - 2 := by
  induction line generalizing colour len with
  | nil => simpa [runsFrom] using runPenalty_le len
  | cons x rest ih =>
    rw [runsFrom, List.length_cons]
    split
    case isTrue =>
      exact (ih colour (len + 1)).trans (by omega)
    case isFalse =>
      have hrest := ih x 1
      have hrun := runPenalty_le len
      rw [List.map_cons, List.sum_cons]
      omega

theorem sum_runPenalty_le (line : List Bool) : ((runsOf line).map runPenalty).sum ≤ line.length - 2 := by
  cases line with
  | nil => exact Nat.zero_le _
  | cons x rest => simpa [runsOf, Nat.add_comm] using sum_runPenalty_runsFrom_le x 1 rest

/-- A window of 11 modules starts at no more than L − 10 places of a line of L. -/
theorem patternMatches_le (line : List Bool) : patternMatches line ≤ line.length - 10 := by
  induction line with
  | nil => exact Nat.zero_le _
  | cons x rest ih =>
    rw [patternMatches, List.length_cons]
    split
    case isTrue h =>
      have hlong : 11 ≤ (x :: rest).length := by
        rcases h with h | h <;> exact (List.isPrefixOf_iff_prefix.1 h).length_le
      rw [List.length_cons] at hlong
      omega
    case isFalse => omega

theorem blocksInRows_le (above below : List Bool) : blocksInRows above below ≤ above.length - 1 := by
  induction above, below using blocksInRows.induct with
  | case1 a a' as b b' bs ih =>
    rw [blocksInRows, List.length_cons]
    rw [List.length_cons] at ih ⊢
    split <;> omega
  | case2 above below hshort =>
    rw [blocksInRows.eq_2 _ _ hshort]
    exact Nat.zero_le _

theorem blockCount_le {n : Nat} (t : List (List Bool)) (hrows : ∀ row ∈ t, row.length = n) :
    blockCount t ≤ (t.length - 1) * (n - 1) := by
  induction t using blockCount.induct with
  | case1 r r' rest ih =>
    obtain ⟨hrow, hrows⟩ := List.forall_mem_cons.1 hrows
    calc blockCount (r :: r' :: rest) = blocksInRows r r' + blockCount (r' :: rest) := by rw [blockCount]
      _ ≤ (n - 1) + rest.length * (n - 1) := Nat.add_le_add (hrow ▸ blocksInRows_le r r') (ih hrows)
      _ = (rest.length + 1) * (n - 1) := by rw [Nat.succ_mul, Nat.add_comm]
  | case2 t hshort =>
    rw [blockCount.eq_2 _ hshort]
    exact Nat.zero_le _

/-! ### The penalties and the score (R259) -/

theorem sum_map_le {α : Type} {f : α → Nat} {b : Nat} (l : List α) (h : ∀ x ∈ l, f x ≤ b) :
    (l.map f).sum ≤ l.length * b := by
  simpa using List.sum_le_card_nsmul (l.map f) b (by simpa using h)

/-- 10 times a deviation of at most 10 (R253); for no modules the quotient is 0. -/
theorem penaltyN4_le {dark total : Nat} (h : dark ≤ total) : penaltyN4 dark total ≤ 100 := by
  have hdeviation : ((20 * dark : Nat) - (10 * total : Nat) : Int).natAbs ≤ total * 10 := by omega
  exact Nat.mul_le_mul_left 10 (Nat.div_le_of_le_mul hdeviation)

section
variable {n : Nat} {t : List (List Bool)} (hlen : t.length = n) (hrows : ∀ row ∈ t, row.length = n)
include hlen hrows

theorem penaltyN1_le : penaltyN1 t ≤ 2 * n * (n - 2) := by
  obtain ⟨hcount, hlines⟩ := linesOf_lengths hlen hrows
  rw [← hcount]
  exact sum_map_le _ fun line hline => hlines line hline ▸ sum_runPenalty_le line

theorem penaltyN2_le : penaltyN2 t ≤ 3 * (n - 1) ^ 2 := by
  rw [Nat.pow_two]
  have hcount := blockCount_le t hrows
  rw [hlen] at hcount
  exact Nat.mul_le_mul_left 3 hcount

theorem penaltyN3_le : penaltyN3 t ≤ 40 * 2 * n * (n - 10) := by
  obtain ⟨hcount, hlines⟩ := linesOf_lengths hlen hrows
  rw [Nat.mul_assoc 40, Nat.mul_assoc 40, ← hcount]
  exact Nat.mul_le_mul_left 40 (sum_map_le _ fun line hline => hlines line hline ▸ patternMatches_le line)

theorem darkCount_le : darkCount t ≤ n * n := by
  rw [← hlen]
  exact sum_map_le t fun row hrow => (hlen.trans (hrows row hrow).symm) ▸ List.countP_le_length

end

/-- The sum of the four bounds of R259 for an n × n matrix. -/
def scoreBound (n : Nat) : Nat := 2 * n * (n - 2) + 3 * (n - 1) ^ 2 + 40 * 2 * n * (n - 10) + 100

theorem scoreBound_mono {n k : Nat} (h : n ≤ k) : scoreBound n ≤ scoreBound k := by
  unfold scoreBound
  gcongr

theorem score_le_scoreBound {n : Nat} {t : List (List Bool)} (hlen : t.length = n)
    (hrows : ∀ row ∈ t, row.length = n) : score n t ≤ scoreBound n :=
  Nat.add_le_add (Nat.add_le_add (Nat.add_le_add (penaltyN1_le hlen hrows) (penaltyN2_le hlen hrows))
    (penaltyN3_le hlen hrows)) (penaltyN4_le (darkCount_le hlen hrows))

/-- Settles O40: the four bounds add up to less than 2^22 at n = 177, and grow with n. -/
theorem scoresAreBounded : Obligations.ScoresAreBounded := by
  intro n t hn hlen hrows
  refine ⟨penaltyN1_le hlen hrows, penaltyN2_le hlen hrows, penaltyN3_le hlen hrows,
    penaltyN4_le (darkCount_le hlen hrows), ?_⟩
  calc score n t ≤ scoreBound n := score_le_scoreBound hlen hrows
    _ ≤ scoreBound 177 := scoreBound_mono hn
    _ < 2 ^ 22 := by decide

/-! ### The scores of the trials (R260) -/

theorem square_gridOf (s : State) : Square (gridOf s) s.side.toNat := by
  simp [Square, gridOf]

theorem Square.masked {g : Grid} {n : Nat} (h : Square g n) (m : Fin 8) : Square (masked g m) n :=
  h.of_provenances (provenances_masked g m)

/-- A score of a matrix whose side is a register's value fits its register (R259). -/
theorem trialScore_lt {g : Grid} {n : Nat} (h : Square g n) (hn : n ≤ 255) (m : Fin 8) : trialScore n g m < 2 ^ 32 := by
  obtain ⟨hlen, hrows⟩ := h.masked m
  calc trialScore n g m ≤ scoreBound n :=
        score_le_scoreBound (by simpa [colours] using hlen) (by simpa [colours] using hrows)
    _ ≤ scoreBound 255 := scoreBound_mono hn
    _ < 2 ^ 32 := by decide

theorem trialScores_getElem (n : Nat) (g : Grid) (m : Fin 8) :
    (trialScores n g)[m] = BitVec.ofNat 32 (trialScore n g m) := by
  fin_cases m <;> rfl

theorem trialScores_toNat {g : Grid} {n : Nat} (h : Square g n) (hn : n ≤ 255) (m : Fin 8) :
    (trialScores n g)[m].toNat = trialScore n g m := by
  rw [trialScores_getElem, BitVec.toNat_ofNat, Nat.mod_eq_of_lt (trialScore_lt h hn m)]

/-! ### The least mask of least score (R255) -/

/-- No mask of the list scores less than w, and none before w scores the same. -/
def LeastAmong (scores : Vector Word 8) (masks : List (Fin 8)) (w : Fin 8) : Prop :=
  ∀ m ∈ masks, scores[w].toNat ≤ scores[m].toNat ∧ (m < w → scores[w].toNat < scores[m].toNat)

/-- Going through ascending masks and keeping the better ends at the least of least score: a mask given up scores more than
the one kept, or scores no less and comes after it. -/
theorem leastAmong_foldl_betterMask (scores : Vector Word 8) (masks : List (Fin 8)) (first : Fin 8)
    (hasc : (first :: masks).Pairwise (· < ·)) :
    LeastAmong scores (first :: masks) (masks.foldl (betterMask scores) first) := by
  induction masks generalizing first with
  | nil => simp [LeastAmong]
  | cons second rest ih =>
    obtain ⟨hfirst, hsecond, hrest⟩ : first < second ∧ (∀ m ∈ rest, first < m) ∧ (second :: rest).Pairwise (· < ·) := by
      simp only [List.pairwise_cons, List.forall_mem_cons] at hasc ⊢
      tauto
    rw [List.foldl_cons, betterMask]
    split
    case isTrue hless =>
      obtain ⟨hw, hwrest⟩ := List.forall_mem_cons.1 (ih second hrest)
      exact List.forall_mem_cons.2 ⟨⟨by omega, fun _ => by omega⟩, List.forall_mem_cons.2 ⟨hw, hwrest⟩⟩
    case isFalse hle =>
      obtain ⟨⟨hwle, hwlt⟩, hwrest⟩ :=
        List.forall_mem_cons.1 (ih first (List.pairwise_cons.2 ⟨hsecond, hrest.of_cons⟩))
      exact List.forall_mem_cons.2 ⟨⟨hwle, hwlt⟩, List.forall_mem_cons.2
        ⟨⟨by omega, fun hlt => (hwlt (hfirst.trans hlt)).trans_le (by omega)⟩, hwrest⟩⟩

theorem winner_least (scores : Vector Word 8) : LeastAmong scores (List.finRange 8) (winner scores) :=
  leastAmong_foldl_betterMask scores [1, 2, 3, 4, 5, 6, 7] 0 (by decide)

/-- Settles O39: a side is at most 255, so every score fits its register. -/
theorem mselectResult : Obligations.MselectResult := by
  intro s h6
  rcases runMselect_cases s with ⟨hne, -⟩ | ⟨-, scores, w, hscores, hw, hrun⟩
  · exact absurd h6 hne
  · have hfits : ∀ m : Fin 8, scores[m].toNat = trialScore s.side.toNat (gridOf s) m :=
      hscores ▸ trialScores_toNat (square_gridOf s) (Nat.le_of_lt_succ s.side.isLt)
    have hleast : LeastAmong scores (List.finRange 8) w := hw ▸ winner_least scores
    have hmask : (BitVec.ofNat 3 w.val).toNat = w.val := Nat.mod_eq_of_lt w.isLt
    exact ⟨_, w, congrArg Host.Outcome.next hrun, rfl, hmask, hfits, fun m => (hleast m (List.mem_finRange m)).1,
      fun m => (hleast m (List.mem_finRange m)).2⟩

end Sys2Proof.Machine
end

section
/-! SUPPORT. The command FORMAT and the words it writes (R270 to R278): each bit of a word ends up at both its positions, as the
positions are distinct; the format words are the words of a linear code, shifted. -/

namespace Sys2Proof.Machine

/-! ### Writing the bits of a word (R274, R278) -/

theorem gridAt_setDark_same {g : Grid} {p : Nat × Nat} {q : Provenance} (h : provAt g p = some q) (dark : Bool) :
    gridAt (setDark g p dark) p.1 p.2 = some ⟨dark, q⟩ := by
  obtain ⟨m, hm, rfl⟩ := provAt_eq_some.1 h
  rw [setDark, hm]
  exact gridAt_gridSet_same _ hm

theorem gridAt_setDark_other (g : Grid) {p q : Nat × Nat} (h : q ≠ p) (dark : Bool) :
    gridAt (setDark g p dark) q.1 q.2 = gridAt g q.1 q.2 := by
  rw [setDark]
  split
  · exact gridAt_gridSet_other g _ h
  · rfl

/-- A write that completes met Format modules only (R270). -/
theorem writeInfo_cons_eq_some {word i : Nat} {p q : Nat × Nat} {rest : List ((Nat × Nat) × (Nat × Nat))} {g g' : Grid}
    (h : writeInfo word i ((p, q) :: rest) g = some g') :
    provAt g p = some .format ∧ provAt g q = some .format ∧
      writeInfo word (i + 1) rest (setDark (setDark g p (word.testBit i)) q (word.testBit i)) = some g' := by
  simpa [writeInfo, isFormatModule_iff, and_assoc] using h

/-- `g'` is `g` with the bits of a word from bit i on at the positions of its two copies. -/
structure WritesCopies (word i : Nat) (copy1 copy2 : List (Nat × Nat)) (g g' : Grid) : Prop where
  bit : ∀ k p, (copy1[k]? = some p ∨ copy2[k]? = some p) →
    gridAt g' p.1 p.2 = some ⟨word.testBit (i + k), .format⟩
  kept : ∀ p, p ∉ copy1 ++ copy2 → gridAt g' p.1 p.2 = gridAt g p.1 p.2

/-- At distinct positions, no bit overwrites another. -/
theorem writeInfo_writesCopies {word i : Nat} {copy1 copy2 : List (Nat × Nat)} (hlen : copy1.length = copy2.length)
    (hnodup : (copy1 ++ copy2).Nodup) {g g' : Grid} (h : writeInfo word i (copy1.zip copy2) g = some g') :
    WritesCopies word i copy1 copy2 g g' := by
  induction copy1 generalizing copy2 i g with
  | nil =>
    cases List.length_eq_zero_iff.1 hlen.symm
    cases h
    exact ⟨by simp, fun _ _ => rfl⟩
  | cons p copy1 ih =>
    obtain _ | ⟨q, copy2⟩ := copy2
    · cases hlen
    rw [List.cons_append, List.nodup_cons, List.nodup_middle, List.nodup_cons] at hnodup
    obtain ⟨hp, hq, hdistinct⟩ := hnodup
    obtain ⟨hpq, hp⟩ : p ≠ q ∧ p ∉ copy1 ++ copy2 := by simpa [and_left_comm] using hp
    obtain ⟨hformatp, hformatq, hrest⟩ := writeInfo_cons_eq_some h
    have later := ih (Nat.succ.inj hlen) hdistinct hrest
    constructor
    case bit =>
      rintro (_ | k) x hx
      · rcases hx with hx | hx <;> cases hx
        · rw [later.kept _ hp, gridAt_setDark_other _ hpq]
          exact gridAt_setDark_same hformatp _
        · rw [later.kept _ hq]
          exact gridAt_setDark_same ((recoloured_setDark hformatp _).provAt_eq ▸ hformatq) _
      · rw [later.bit k x hx, Nat.add_right_comm, Nat.add_assoc]
    case kept =>
      intro x hx
      obtain ⟨hxp, hxq, hx⟩ : x ≠ p ∧ x ≠ q ∧ x ∉ copy1 ++ copy2 := by simpa [and_left_comm] using hx
      rw [later.kept _ hx, gridAt_setDark_other _ hxq, gridAt_setDark_other _ hxp]

theorem writeFormatWord_writesCopies {word n : Nat} (hn : 21 ≤ n) {g g' : Grid} (h : writeFormatWord word n g = some g') :
    WritesCopies word 0 formatPositions1 (formatPositions2 n) g g' :=
  writeInfo_writesCopies (by rfl) (nodup_formatPositions hn) h

/-- The version word is written from version 7 on, and nothing before (R278). -/
theorem writeVersionWord_cases {v n : Nat} (hn : 21 ≤ n) {g g' : Grid} (h : writeVersionWord v n g = some g') :
    (7 ≤ v → WritesCopies (versionWord v) 0 (versionPositions1 n) (versionPositions2 n) g g') ∧
      ∀ p, p ∉ versionPositions v n → gridAt g' p.1 p.2 = gridAt g p.1 p.2 := by
  have hnodup := nodup_versionPositions v hn
  rw [writeVersionWord] at h
  rw [versionPositions] at hnodup ⊢
  split at h
  case isTrue h7 =>
    rw [if_pos h7] at hnodup ⊢
    have written := writeInfo_writesCopies (by simp [versionPositions1, versionPositions2]) hnodup h
    exact ⟨fun _ => written, written.kept⟩
  case isFalse h7 =>
    cases h
    exact ⟨fun h => absurd h h7, fun _ _ => rfl⟩

/-- In a consistent state at stage 7 FORMAT writes both words (R270): its internal test does not fire (R306). -/
theorem exec_format_of_consistent {s : State} (hs : Consistent s) (h7 : s.stage = .masked) :
    ∃ g1 g2, writeFormatWord (formatWord s.level.toNat s.mask.toNat) s.side.toNat s.modules = some g1 ∧
      writeVersionWord s.ver.toNat s.side.toNat g1 = some g2 ∧
      exec .format s = .next { s with modules := g2, stage := .final } := by
  have code : 5 ≤ s.stage.code := by rw [h7]; decide
  obtain ⟨h1, h40, hside⟩ := hs.side_eq (by omega)
  obtain ⟨g2, hboth, -⟩ := writeInformation_recoloured h1 h40 (hside ▸ hs.built code)
    (formatWord s.level.toNat s.mask.toNat)
  rw [← hside] at hboth
  obtain ⟨g1, hformat, hversion⟩ := Option.bind_eq_some_iff.1 hboth
  refine ⟨g1, g2, hformat, hversion, congrArg Host.Outcome.next ?_⟩
  rcases runFormat_cases s with ⟨hne, -⟩ | ⟨-, written, hwritten, hcase⟩
  · exact absurd h7 hne
  · rw [gridOf_eq_modules (hs.square code), hboth] at hwritten
    subst hwritten
    rcases hcase with ⟨hnone, -⟩ | ⟨g, hg, h⟩
    · cases hnone
    · cases hg
      exact h

/-- Settles O41: the version word is written after the format word, at other positions. -/
theorem formatResult : Obligations.FormatResult := by
  intro s hs h7
  have hn : 21 ≤ s.side.toNat := by
    obtain ⟨h1, -, hside⟩ := hs.side_eq (by rw [h7]; decide)
    rw [hside, sideOf]
    omega
  obtain ⟨g1, g2, hformat, hversion, hexec⟩ := exec_format_of_consistent hs h7
  have format := writeFormatWord_writesCopies hn hformat
  obtain ⟨version, kept⟩ := writeVersionWord_cases hn hversion
  have disjoint : ∀ p ∈ formatPositions s.side.toNat, p ∉ versionPositions s.ver.toNat s.side.toNat :=
    List.disjoint_of_nodup_append (nodup_infoPositions s.ver.toNat hn)
  refine ⟨_, _, hexec, rfl, rfl, fun i p hp => ?formatBit, fun hv i p hp => ?versionBit, fun r c hrc => ?other⟩
  case formatBit =>
    have hmem : p ∈ formatPositions s.side.toNat :=
      List.mem_append.2 (hp.imp List.mem_of_getElem? List.mem_of_getElem?)
    rw [kept p (disjoint p hmem), format.bit i p hp, Nat.zero_add]
  case versionBit => rw [(version hv).bit i p hp, Nat.zero_add]
  case other =>
    rw [List.mem_append, not_or] at hrc
    rw [kept (r, c) hrc.2]
    exact format.kept (r, c) hrc.1

/-! ### The format and version words as codewords (R276) -/

/-- A term of the product: g times a power of x where the coefficient is 1. -/
theorem ite_xor_eq (a b : Bool) (x : Nat) :
    (if a ^^ b then x else 0) = (if a then x else 0) ^^^ (if b then x else 0) := by
  cases a <;> cases b <;> simp

/-- The product as a sum of terms. -/
theorem polyMul_eq_foldl_xor (q g : Nat) : polyMul q g =
    (List.range 6).foldl (fun acc i => acc ^^^ if q.testBit i then g * 2 ^ i else 0) 0 := by
  have hterm : ∀ acc i, (if q.testBit i then acc ^^^ (g * 2 ^ i) else acc) =
      acc ^^^ if q.testBit i then g * 2 ^ i else 0 := by
    intro acc i
    split
    · rfl
    · exact (Nat.xor_zero acc).symm
  rw [polyMul]
  simp only [hterm]

theorem polyMul_xor (q q' g : Nat) : polyMul (q ^^^ q') g = polyMul q g ^^^ polyMul q' g := by
  simp only [polyMul_eq_foldl_xor, Nat.testBit_xor, ite_xor_eq, List.range, List.range.loop, List.foldl_cons, List.foldl_nil]
  ac_rfl

theorem bitDistance_eq_weight (x y : Nat) : bitDistance x y = bitDistance (x ^^^ y) 0 := by
  rw [bitDistance, bitDistance, Nat.xor_zero]

/-- The code of G15 has the minimum weight 7. -/
theorem seven_le_weight_polyMul : ∀ q < 32, q ≠ 0 → 7 ≤ bitDistance (polyMul q 0x537) 0 := by decide

/-- The code is linear, so its minimum distance is its minimum weight. -/
theorem seven_le_bitDistance_polyMul {q q' : Nat} (hq : q < 32) (hq' : q' < 32) (hne : q ≠ q') :
    7 ≤ bitDistance (polyMul q 0x537) (polyMul q' 0x537) := by
  rw [bitDistance_eq_weight, ← polyMul_xor]
  exact seven_le_weight_polyMul _ (Nat.xor_lt_two_pow (n := 5) hq hq') (Nat.xor_ne_zero_iff.2 hne)

/-- The mask 0x5412 is no word of the code, so no format word is 0. -/
theorem polyMul_ne_mask : ∀ q < 32, polyMul q 0x537 ≠ 0x5412 := by decide

/-- The unmasked format words are words of the code, with the data on top (R271, R273). -/
theorem formatWord_codeword : ∀ l < 4, ∀ m < 8,
    (∃ q, q < 32 ∧ formatWord l m ^^^ 0x5412 = polyMul q 0x537) ∧
      (formatWord l m ^^^ 0x5412) / 1024 = formatData l m := by decide

/-- The version words are words of the code of G18, with the version on top (R277). -/
theorem versionWord_codeword : ∀ v ≤ 40,
    (∃ q, q < 64 ∧ versionWord v = polyMul q 0x1F25) ∧ versionWord v / 4096 = v := by decide +kernel

theorem levelCode_injective : ∀ l < 4, ∀ l' < 4, levelCode l = levelCode l' → l = l' := by decide

theorem formatData_injective {l m l' m' : Nat} (hl : l < 4) (hm : m < 8) (hl' : l' < 4) (hm' : m' < 8)
    (h : formatData l m = formatData l' m') : (l, m) = (l', m') := by
  rw [formatData, formatData] at h
  rw [levelCode_injective l hl l' hl' (by omega), show m = m' by omega]

theorem getElem?_levelCodes : ∀ l < 4, [1, 0, 3, 2][l]? = some (levelCode l) := by decide

/-- The mask leaves distances as they are. -/
theorem bitDistance_xor_right (x y k : Nat) : bitDistance (x ^^^ k) (y ^^^ k) = bitDistance x y := by
  have hcancel : x ^^^ k ^^^ (y ^^^ k) = x ^^^ y ^^^ (k ^^^ k) := by ac_rfl
  rw [bitDistance_eq_weight, hcancel, Nat.xor_self, Nat.xor_zero, ← bitDistance_eq_weight]

/-- Settles O42: the unmasked format words are different words of a linear code of minimum weight 7. -/
theorem formatAndVersionWordsAreCodewords : Obligations.FormatAndVersionWordsAreCodewords := by
  refine ⟨fun l hl m hm => ?_, fun v _ h40 => versionWord_codeword v h40⟩
  obtain ⟨⟨q, hq, hword⟩, hdata⟩ := formatWord_codeword l hl m hm
  refine ⟨⟨q, hq, hword⟩, fun hzero => ?nonzero, ?top, fun l' hl' m' hm' hne => ?distance⟩
  case nonzero =>
    rw [hzero, Nat.zero_xor] at hword
    exact polyMul_ne_mask q hq hword.symm
  case top => rw [hdata, getElem?_levelCodes l hl, Option.map_some, formatData]
  case distance =>
    obtain ⟨⟨q', hq', hword'⟩, hdata'⟩ := formatWord_codeword l' hl' m' hm'
    have hqq : q ≠ q' := by
      rintro rfl
      exact hne (formatData_injective hl hm hl' hm' (by rw [← hdata, ← hdata', hword, hword']))
    rw [← bitDistance_xor_right _ _ 0x5412, hword, hword']
    exact seven_le_bitDistance_polyMul hq hq' hqq

end Sys2Proof.Machine
end

section
/-! SUPPORT. No command and no step stops the block (R336, R340); the stage test and the parameter tests of the commands (R308,
R311). -/

namespace Sys2Proof.Machine

/-- Every transaction answers a next state (R60, R336). -/
theorem transact_next (t : Transaction) (s : State) : ∃ u, transact t s = .next u := by
  rcases transact_cases t s with ⟨r, h⟩ | ⟨r, n, h⟩ | ⟨l, f, n, h⟩ | ⟨a, bytes, -, h⟩ | ⟨a, bytes, -, -, h⟩ | ⟨w, u, -, -, h⟩ <;>
    exact ⟨_, h⟩

theorem step_next (s : State) : ∃ t, step s = .next t := by
  rcases step_cases s with ⟨-, h⟩ | ⟨rest, -, h⟩ | ⟨t, rest, -, h⟩
  · exact ⟨_, h⟩
  · exact ⟨_, h⟩
  · rw [h]
    exact transact_next t _

theorem step_of_idle {s : State} (h : s.pending = []) : step s = .next s := by rw [step, takeEvent, h]

/-- Settles O6: a command, a transaction and a reset each answer a next state. -/
theorem everyStepAnswers : Obligations.EveryStepAnswers := ⟨exec_next, step_next, fun _ => step_of_idle⟩

/-- Settles O10: each test stands before anything else that its command does at that stage. -/
theorem parametersOutOfRangeRaiseBadParameter : Obligations.ParametersOutOfRangeRaiseBadParameter := by
  refine ⟨fun s h0 hlarge => ?segment, fun s h1 hfver => ?vselect, fun s e he => ?rsgen, fun s k e hke => ?rsblk⟩
  case segment =>
    rcases runSegment_cases s with ⟨hne, -⟩ | ⟨-, -, h⟩ | ⟨-, htlen, hfver, -⟩
    · exact absurd h0 hne
    · rw [raise, h0] at h
      exact congrArg Host.Outcome.next h
    · omega
  case vselect =>
    have hbody : vselectBody s = raise .badParameter 0x11 s := if_pos hfver
    rcases atStage_cases .segmented 0x11 vselectBody s with ⟨hne, -⟩ | ⟨-, h⟩
    · exact absurd h1 hne
    · rw [hbody, raise, h1] at h
      exact congrArg Host.Outcome.next h
  case rsgen => exact if_pos he
  case rsblk => exact if_pos hke

/-- At any stage but its own a stage command raises SequenceFault (R308, R310). -/
theorem next_atStage_of_ne {required : Stage} {op : Byte} {body : State → State} {s : State} (h : s.stage ≠ required) :
    (.next (atStage required op body s) : Host.Outcome State Fault Refusal) =
      .next { invalidate s with errcode := .sequenceFault, errinfo := ⟨op, s.stage⟩ } :=
  congrArg Host.Outcome.next (if_pos h)

/-- A command that is not a stage command and not ENCODE keeps the error, clears it, or raises one of another kind (R181, R183,
R207, R208, R292). -/
theorem sequenceFault_of_exec {i : Instr} (hi : i ∉ stageInstrs ++ [.encode]) {s t : State} (h : exec i s = .next t) :
    t.errcode = .sequenceFault → s.errcode = .sequenceFault := by
  cases i with
  | nop => cases h; exact id
  | clear => cases h; exact nofun
  | gfmul a b => cases h; exact id
  | gfexp n => cases h; exact id
  | gfdiv a b =>
    rw [exec, execGfdiv] at h
    split at h <;> cases h
    · exact id
    · exact nofun
  | gflog a =>
    rw [exec, execGflog] at h
    split at h <;> cases h
    · exact id
    · exact nofun
  | rsgen e =>
    rw [exec, execRsgen] at h
    split at h <;> cases h
    · exact nofun
    · exact id
  | rsblk k e =>
    rw [exec, execRsblk] at h
    split at h <;> cases h
    · exact nofun
    · exact id
  | _ => exact absurd (by decide) hi

end Sys2Proof.Machine
end

section
/-! SUPPORT. How ENCODE ends (R299), and that it is the nine commands issued blindly (R297). -/

namespace Sys2Proof.Machine

/-- Settles O45: ENCODE raises in SEGMENT or in VSELECT, or runs to stage 8. -/
theorem encodeOutcomes : Obligations.EncodeOutcomes := by
  rintro s _ ⟨⟩
  rcases runEncode_cases s with ⟨hlarge, h⟩ | ⟨htlen, hfver, ⟨-, h⟩ | ⟨v, hv, -⟩⟩
  · rw [h]
    exact .inr ⟨invalidated_raise .., rfl, .inl ⟨rfl, rfl, hlarge⟩⟩
  · rw [h]
    by_cases h0 : s.fver = 0
    · rw [if_pos h0]
      exact .inr ⟨invalidated_raise .., rfl, .inr (.inl ⟨rfl, rfl, h0⟩)⟩
    · rw [if_neg h0]
      exact .inr ⟨invalidated_raise .., rfl, .inr (.inr ⟨rfl, rfl, h0⟩)⟩
  · obtain ⟨-, hok, hfinal⟩ := runEncode_final_of_chosen htlen hfver hv
    exact .inl ⟨hfinal, hok, by simp [statusWord, finalFlag, hok, hfinal, Stage.code]⟩

/-- Settles O9: the stage test comes first; the other commands' errors are of other kinds, and so are ENCODE's. -/
theorem stageCommandsTestTheStage : Obligations.StageCommandsTestTheStage := by
  refine ⟨fun s => ?stages, fun i s t hi h => sequenceFault_of_exec hi h, fun s t h => ?encode⟩
  case stages =>
    simp only [List.forall_mem_cons, List.not_mem_nil, false_implies, implies_true, and_true]
    exact ⟨next_atStage_of_ne, next_atStage_of_ne, next_atStage_of_ne, next_atStage_of_ne, next_atStage_of_ne,
      next_atStage_of_ne, next_atStage_of_ne, next_atStage_of_ne⟩
  case encode =>
    intro hfault
    rcases encodeOutcomes s t h with ⟨-, he, -⟩ | ⟨-, -, ⟨he, -⟩ | ⟨he, -⟩ | ⟨he, -⟩⟩ <;> cases hfault.symm.trans he

/-- Executing the word does what the stage command does, but nothing while an error is recorded (R312). -/
def IsWordOf (w : Word) (f : State → State) : Prop := ∀ s, execute w s = .next (if errFlag s then s else f s)

theorem isWordOf_of_decode {w : Word} {i : Instr} {f : State → State} (hdecode : decode w = .ok i)
    (hexec : ∀ s, exec i s = .next (f s)) (hgate : passesGate (.ok i) = false) : IsWordOf w f := by
  intro s
  rw [execute, hdecode, hgate]
  cases errFlag s
  · exact hexec s
  · rfl

/-- The words of the eight stage commands (R93, R297). -/
theorem words_stageCommands :
    List.Forall₂ IsWordOf [0x10, 0x11, 0x12, 0x13, 0x14, 0x15, 0x16, 0x17] stageCommands :=
  .cons (isWordOf_of_decode (i := .segment) rfl (fun _ => rfl) rfl) <|
  .cons (isWordOf_of_decode (i := .vselect) rfl (fun _ => rfl) rfl) <|
  .cons (isWordOf_of_decode (i := .pack) rfl (fun _ => rfl) rfl) <|
  .cons (isWordOf_of_decode (i := .rsenc) rfl (fun _ => rfl) rfl) <|
  .cons (isWordOf_of_decode (i := .mbuild) rfl (fun _ => rfl) rfl) <|
  .cons (isWordOf_of_decode (i := .mplace) rfl (fun _ => rfl) rfl) <|
  .cons (isWordOf_of_decode (i := .mselect) rfl (fun _ => rfl) rfl) <|
  .cons (isWordOf_of_decode (i := .format) rfl (fun _ => rfl) rfl) .nil

/-- The words issued blindly do what the run does that ends at the first error: the gate ignores the rest (R295, R312). -/
theorem executeAll_eq_runStages {words : List Word} {stages : List (State → State)}
    (h : List.Forall₂ IsWordOf words stages) (s : State) :
    executeAll words s = .next (if errFlag s then s else runStages stages s) := by
  induction h generalizing s with
  | nil => rw [executeAll, runStages, ite_self]
  | cons hw _ ih =>
    rw [executeAll, hw s]
    dsimp only
    rw [ih]
    cases hs : errFlag s
    · rfl
    · rw [if_pos rfl, if_pos hs, if_pos rfl]

/-- Settles O44: CLEAR acknowledges the error, and the eight words after it run the stages up to the first that raises. -/
theorem encodeIsTheNineCommands : Obligations.EncodeIsTheNineCommands := by
  intro s
  have hclear : execute 0x00000001 s = .next (acknowledge s) := (recordedErrorGatesCommands.2 s).1
  rw [executeAll, hclear]
  exact (recordedErrorGatesCommands.2 s).2.trans (executeAll_eq_runStages words_stageCommands (acknowledge s)).symm

end Sys2Proof.Machine
end

section
/-! SUPPORT. ENCODE sees of a state only LEVEL, FVER, TLEN and the text (R299): two consistent states with equal registers, and
with equal buffers as far as STAGE says they are valid, stay so through every stage command. -/

namespace Sys2Proof.Machine

/-- What a run of ENCODE can tell of a state is equal in both: the inputs, STAGE, the error, the result registers, and the
result buffers as far as STAGE says they are valid (R24). -/
structure SameRun (s s' : State) : Prop where
  level : s.level = s'.level
  fver : s.fver = s'.fver
  tlen : s.tlen = s'.tlen
  text : ∀ i, i < s.tlen.toNat → textAt s i = textAt s' i
  stage : s.stage = s'.stage
  errcode : s.errcode = s'.errcode
  errinfo : s.errinfo = s'.errinfo
  ver : s.ver = s'.ver
  side : s.side = s'.side
  mask : s.mask = s'.mask
  nseg : s.nseg = s'.nseg
  bitlen : s.bitlen = s'.bitlen
  dlen : s.dlen = s'.dlen
  clen : s.clen = s'.clen
  nblk : s.nblk = s'.nblk
  scores : s.scores = s'.scores
  segmented : 1 ≤ s.stage.code → s.segt = s'.segt
  packed : 3 ≤ s.stage.code → s.dcw = s'.dcw
  coded : 4 ≤ s.stage.code → s.eccb = s'.eccb ∧ s.cw = s'.cw
  built : 5 ≤ s.stage.code → s.modules = s'.modules

namespace SameRun

variable {s s' : State}

/-- Two invalidated states with equal inputs and equal errors: no buffer is valid (R48). -/
theorem of_invalidate (hlevel : s.level = s'.level) (hfver : s.fver = s'.fver) (htlen : s.tlen = s'.tlen)
    (htext : ∀ i, i < s.tlen.toNat → textAt s i = textAt s' i) (herrcode : s.errcode = s'.errcode)
    (herrinfo : s.errinfo = s'.errinfo) : SameRun (invalidate s) (invalidate s') where
  level := hlevel
  fver := hfver
  tlen := htlen
  text := htext
  stage := rfl
  errcode := herrcode
  errinfo := herrinfo
  ver := rfl
  side := rfl
  mask := rfl
  nseg := rfl
  bitlen := rfl
  dlen := rfl
  clen := rfl
  nblk := rfl
  scores := rfl
  segmented h := absurd h (by simp [Stage.code])
  packed h := absurd h (by simp [Stage.code])
  coded h := absurd h (by simp [Stage.code])
  built h := absurd h (by simp [Stage.code])

theorem raise (h : SameRun s s') (e : ErrCode) (op : Byte) : SameRun (raise e op s) (raise e op s') :=
  of_invalidate h.level h.fver h.tlen h.text rfl (congrArg (ErrInfo.mk op) h.stage)

/-- A test that comes out alike on both states. -/
theorem ite {p p' : Prop} [Decidable p] [Decidable p'] {t t' u u' : State} (hp : p ↔ p') (ht : SameRun t t')
    (hu : SameRun u u') : SameRun (if p then t else u) (if p' then t' else u') := by
  by_cases h : p
  · rwa [if_pos h, if_pos (hp.1 h)]
  · rwa [if_neg h, if_neg (mt hp.2 h)]

/-- The characters that the commands read are those of the text (R40). -/
theorem textSlice_eq (h : SameRun s s') {start n : Nat} (hle : start + n ≤ s.tlen.toNat) :
    textSlice s start n = textSlice s' start n :=
  List.map_congr_left fun k hk => h.text _ (by have := List.mem_range.1 hk; omega)

theorem inputSegments_eq (h : SameRun s s') : inputSegments s = inputSegments s' := by
  rw [inputSegments, inputSegments, segmentationVersion, segmentationVersion, h.textSlice_eq (by omega), h.fver, h.tlen]

end SameRun

/-- `f` keeps what a run of ENCODE can tell of two states equal. -/
def Respects (f : State → State) : Prop :=
  ∀ s s', Consistent s → Consistent s' → SameRun s s' → SameRun (f s) (f s')

theorem respects_atStage {required : Stage} {op : Byte} {body : State → State}
    (hbody : ∀ s s', Consistent s → Consistent s' → SameRun s s' → s.stage = required → SameRun (body s) (body s')) :
    Respects (atStage required op body) := by
  intro s s' hs hs' h
  rcases atStage_cases required op body s with ⟨hne, e⟩ | ⟨heq, e⟩ <;> rw [e]
  · rw [atStage, if_pos (h.stage ▸ hne)]
    exact h.raise ..
  · rw [atStage, if_neg (not_not.2 (h.stage ▸ heq))]
    exact hbody s s' hs hs' h heq

/-! ### SEGMENT and VSELECT -/

theorem respects_runSegment : Respects runSegment :=
  respects_atStage fun s s' _ _ h _ => by
    have hlist : segmentText (segmentationVersion s) (textSlice s 0 s.tlen.toNat) =
      segmentText (segmentationVersion s') (textSlice s' 0 s'.tlen.toNat) := h.inputSegments_eq
    refine .ite (by rw [h.tlen]) (h.raise ..) (.ite (by rw [h.fver]) (h.raise ..) ?_)
    exact { h with
      stage := rfl
      nseg := by dsimp only; rw [hlist]
      segmented := fun _ => hlist
      packed := fun h => absurd h (by simp [Stage.code])
      coded := fun h => absurd h (by simp [Stage.code])
      built := fun h => absurd h (by simp [Stage.code]) }

theorem SameRun.acceptVersion {s s' : State} (h : SameRun s s') (h1 : s.stage = .segmented) (list : List Segment) (v : Nat) :
    SameRun (acceptVersion list v s) (acceptVersion list v s') := by
  have hsegt := h.segmented (by rw [h1]; decide)
  rw [Machine.acceptVersion, Machine.acceptVersion, ← h.level]
  split
  · exact { h with
      level := rfl
      stage := rfl, ver := rfl, side := rfl, bitlen := rfl, dlen := rfl, clen := rfl, nblk := rfl
      segmented := fun _ => hsegt
      packed := fun h => absurd h (by simp [Stage.code])
      coded := fun h => absurd h (by simp [Stage.code])
      built := fun h => absurd h (by simp [Stage.code]) }
  · exact h.raise ..

/-- In consistent states SEGT holds what the commands read of it (R41). -/
theorem SameRun.segments_eq {s s' : State} (hs : Consistent s) (hs' : Consistent s') (h : SameRun s s')
    (h1 : 1 ≤ s.stage.code) : segments s = segments s' := by
  rw [segments_eq_segt (hs.segmented h1).1, segments_eq_segt (hs'.segmented (h.stage ▸ h1)).1, h.segmented h1]

theorem respects_runVselect : Respects runVselect :=
  respects_atStage fun s s' hs hs' h h1 => by
    have hsegments := h.segments_eq hs hs' (by rw [h1]; decide)
    rw [vselectBody, vselectBody, ← hsegments, ← h.level, ← h.fver]
    refine .ite Iff.rfl (h.raise ..) (.ite Iff.rfl (.ite Iff.rfl ?_ (h.raise ..)) ?_)
    · exact h.acceptVersion h1 ..
    · split
      · exact h.acceptVersion h1 ..
      · exact h.raise ..

/-! ### PACK and RSENC -/

theorem SegmentsFrom.le_of_mem {text : List Byte} {list : List Segment} {pos : Nat} (h : SegmentsFrom text pos list)
    {g : Segment} (hg : g ∈ list) : g.start + g.count ≤ text.length := by
  induction list generalizing pos with
  | nil => cases hg
  | cons g' rest ih =>
    obtain ⟨rfl, -, -, hrest⟩ := h
    rcases List.mem_cons.1 hg with rfl | hmem
    · exact hrest.le_length
    · exact ih hrest hmem

/-- No segment reaches beyond the text (R116, R118). -/
theorem segmentText_le_of_mem {vs : Nat} {text : List Byte} {g : Segment} (hg : g ∈ segmentText vs text) :
    g.start + g.count ≤ text.length := by
  by_cases hne : text = []
  · subst hne
    rw [segmentText, List.mem_singleton] at hg
    rw [hg]
    exact Nat.le_refl 0
  · exact (segmentationCostIsLeast vs text hne).1.le_of_mem hg

theorem SameRun.segmentStream_eq {s s' : State} (hs : Consistent s) (hs' : Consistent s') (h : SameRun s s')
    (h1 : 1 ≤ s.stage.code) : segmentStream s = segmentStream s' := by
  obtain ⟨hlength, hsegt⟩ := hs.segmented h1
  rw [segmentStream, segmentStream, ← h.segments_eq hs hs' h1, segments_eq_segt hlength, ← h.ver]
  refine List.flatMap_congr fun g hg => ?_
  have hle := segmentText_le_of_mem (hsegt ▸ hg)
  rw [textSlice_length] at hle
  rw [emitSegment, emitSegment, h.textSlice_eq hle]

theorem respects_runPack : Respects runPack :=
  respects_atStage fun s s' hs hs' h h2 => by
    have code : s.stage.code = 2 := by rw [h2]; rfl
    have hstream := h.segmentStream_eq hs hs' (by omega)
    refine .ite (by rw [hstream, h.bitlen, h.dlen]) (h.raise ..) (.ite (by rw [hstream, h.dlen]) (h.raise ..) ?_)
    exact { h with
      stage := rfl
      segmented := fun _ => h.segmented (by omega)
      packed := fun _ => by dsimp only; rw [hstream, h.dlen]
      coded := fun h => absurd h (by simp [Stage.code])
      built := fun h => absurd h (by simp [Stage.code]) }

theorem respects_runRsenc : Respects runRsenc :=
  respects_atStage fun s s' hs hs' h h3 => by
    have code : s.stage.code = 3 := by rw [h3]; rfl
    have hdcw : dataCodewords s = dataCodewords s' := by
      rw [dataCodewords_eq_dcw (hs.packed (by omega)), dataCodewords_eq_dcw (hs'.packed (by rw [← h.stage]; omega)),
        h.packed (by omega)]
    rw [rsencBody, rsencBody, ← h.ver, ← h.level]
    split
    · exact h.raise ..
    · refine .ite (by rw [h.dlen, h.nblk, h.clen]) (h.raise ..) (.ite (by rw [hdcw, h.clen]) (h.raise ..) ?_)
      exact { h with
        level := rfl
        ver := rfl
        stage := rfl
        segmented := fun _ => h.segmented (by omega)
        packed := fun _ => h.packed (by omega)
        coded := fun _ => by dsimp only; rw [hdcw]; exact ⟨rfl, rfl⟩
        built := fun h => absurd h (by simp [Stage.code]) }

/-! ### MBUILD to FORMAT -/

theorem respects_runMbuild : Respects runMbuild :=
  respects_atStage fun s s' _ _ h h4 => by
    have code : s.stage.code = 4 := by rw [h4]; rfl
    rw [mbuildBody, mbuildBody, ← h.ver, ← h.side]
    split
    · exact h.raise ..
    · refine .ite Iff.rfl (h.raise ..) (.ite Iff.rfl (h.raise ..) ?_)
      exact { h with
        ver := rfl
        side := rfl
        stage := rfl
        segmented := fun _ => h.segmented (by omega)
        packed := fun _ => h.packed (by omega)
        coded := fun _ => h.coded (by omega)
        built := fun _ => rfl }

/-- In consistent states MOD and PROV hold what the commands read of them (R45). -/
theorem SameRun.gridOf_eq {s s' : State} (hs : Consistent s) (hs' : Consistent s') (h : SameRun s s')
    (h5 : 5 ≤ s.stage.code) : gridOf s = gridOf s' := by
  rw [gridOf_eq_modules (hs.square h5), gridOf_eq_modules (hs'.square (h.stage ▸ h5)), h.built h5]

/-- Going on from stage 5 or later with a matrix, mask and scores that are equal on both sides. -/
theorem SameRun.with_modules {s s' : State} (h : SameRun s s') (h5 : 5 ≤ s.stage.code) (stage : Stage) {g g' : Grid}
    (hg : g = g') {mask mask' : BitVec 3} (hmask : mask = mask') {scores scores' : Vector Word 8} (hscores : scores = scores') :
    SameRun { s with stage := stage, modules := g, mask := mask, scores := scores }
      { s' with stage := stage, modules := g', mask := mask', scores := scores' } :=
  { h with
    stage := rfl
    mask := hmask
    scores := hscores
    segmented := fun _ => h.segmented (by omega)
    packed := fun _ => h.packed (by omega)
    coded := fun _ => h.coded (by omega)
    built := fun _ => hg }

theorem respects_runMplace : Respects runMplace :=
  respects_atStage fun s s' hs hs' h h5 => by
    have code : 5 ≤ s.stage.code := by rw [h5]; decide
    have hplaced : placeBits (traversal s.side.toNat) (streamBits (codewords s)) (gridOf s) 0 =
        placeBits (traversal s'.side.toNat) (streamBits (codewords s')) (gridOf s') 0 := by
      rw [codewords_eq_cw (hs.coded (by omega)), codewords_eq_cw (hs'.coded (by rw [← h.stage]; omega)),
        (h.coded (by omega)).2, h.gridOf_eq hs hs' code, h.side]
    have hrembits : rembits s.ver.toNat = rembits s'.ver.toNat := by rw [h.ver]
    simp only [mplaceBody]
    rw [hrembits, hplaced]
    split
    · exact h.raise ..
    · exact .ite (by rw [h.clen]) (h.raise ..) (h.with_modules code .placed rfl h.mask h.scores)

theorem respects_runMselect : Respects runMselect :=
  respects_atStage fun s s' hs hs' h h6 => by
    have code : 5 ≤ s.stage.code := by rw [h6]; decide
    have hgrid := h.gridOf_eq hs hs' code
    simp only [mselectBody]
    rw [hgrid]
    exact h.with_modules code .masked (by rw [h.side]) (by rw [h.side]) (by rw [h.side])

theorem respects_runFormat : Respects runFormat :=
  respects_atStage fun s s' hs hs' h h7 => by
    have code : 5 ≤ s.stage.code := by rw [h7]; decide
    have hwritten :
        (writeFormatWord (formatWord s.level.toNat s.mask.toNat) s.side.toNat (gridOf s)).bind
          (writeVersionWord s.ver.toNat s.side.toNat) =
        (writeFormatWord (formatWord s'.level.toNat s'.mask.toNat) s'.side.toNat (gridOf s')).bind
          (writeVersionWord s'.ver.toNat s'.side.toNat) := by
      rw [h.gridOf_eq hs hs' code, h.level, h.mask, h.side, h.ver]
    simp only [formatBody]
    rw [hwritten]
    split
    · exact h.with_modules code .final rfl h.mask h.scores
    · exact h.raise ..

/-! ### The whole run -/

theorem stageCommands_respect : ∀ f ∈ stageCommands, Respects f :=
  forall_mem_stageCommands.2 ⟨respects_runSegment, respects_runVselect, respects_runPack, respects_runRsenc,
    respects_runMbuild, respects_runMplace, respects_runMselect, respects_runFormat⟩

theorem SameRun.runStages {stages : List (State → State)} (hstages : ∀ f ∈ stages, f ∈ stageCommands) {s s' : State}
    (hs : Consistent s) (hs' : Consistent s') (hok : s.errcode = .noError) (h : SameRun s s') :
    SameRun (runStages stages s) (runStages stages s') := by
  induction stages generalizing s s' with
  | nil => exact h
  | cons f rest ih =>
    have hf := hstages f (List.mem_cons_self ..)
    have hstep := stageCommands_respect f hf s s' hs hs' h
    rcases runStages_cons f rest s with ⟨herr, hrun⟩ | ⟨hfok, hrun⟩ <;> rw [hrun]
    · rcases runStages_cons f rest s' with ⟨-, hrun'⟩ | ⟨hfok', -⟩
      · rwa [hrun']
      · exact absurd (hstep.errcode.trans hfok') herr
    · rw [runStages_of_ok rest (hstep.errcode ▸ hfok)]
      exact ih (fun g hg => hstages g (List.mem_cons_of_mem _ hg)) (consistent_stepInvariant.stage f hf s hs hok)
        (consistent_stepInvariant.stage f hf s' hs' (h.errcode ▸ hok)) hfok hstep

/-- Another memory with the same bytes makes no difference (R40, R47). -/
theorem textAt_withMemory {m : Memory} {s : State} (hm : ∀ a, Memory.load m a = Memory.load s.mem a) (i : Nat) :
    textAt (withMemory m s) i = textAt s i := by
  rw [textAt, textAt]
  exact congrArg (Option.getD · _) (hm _)

theorem SameRun.of_withMemory {m m' : Memory} {s s' : State} (hm : ∀ a, Memory.load m a = Memory.load s.mem a)
    (hm' : ∀ a, Memory.load m' a = Memory.load s'.mem a) (h : SameRun (withMemory m s) (withMemory m' s')) : SameRun s s' :=
  { h with text := fun i hi => (textAt_withMemory hm i).symm.trans ((h.text i hi).trans (textAt_withMemory hm' i)) }

theorem consistent_acknowledge_canonical (s : State) : Consistent (acknowledge (withMemory (canonical s.mem) s)) :=
  .of_invalidated (invalidated_invalidate _) (wf_canonical s.mem) ⟨nofun, nofun⟩

/-- ENCODE writes no memory (R299). -/
theorem load_canonical_runEncode (s : State) (a : Nat) :
    Memory.load (canonical s.mem) a = Memory.load (runEncode s).mem a := by
  obtain ⟨-, -, -, hmem, -⟩ := (runEncode_frame s).inputs
  rw [hmem, load_canonical]

/-- ENCODE in states with equal inputs, followed with the canonical form of each memory (R295, R299). -/
theorem sameRun_runEncode {s s' : State} (hlevel : s.level = s'.level) (hfver : s.fver = s'.fver) (htlen : s.tlen = s'.tlen)
    (htext : ∀ i, i < s.tlen.toNat → textAt s i = textAt s' i) : SameRun (runEncode s) (runEncode s') := by
  have start : SameRun (acknowledge (withMemory (canonical s.mem) s)) (acknowledge (withMemory (canonical s'.mem) s')) :=
    .of_invalidate hlevel hfver htlen (fun i hi => (textAt_withMemory (load_canonical s.mem) i).trans
      ((htext i hi).trans (textAt_withMemory (load_canonical s'.mem) i).symm)) rfl rfl
  have run : SameRun (runEncode (withMemory (canonical s.mem) s)) (runEncode (withMemory (canonical s'.mem) s')) :=
    start.runStages (fun _ hf => hf) (consistent_acknowledge_canonical s)
      (consistent_acknowledge_canonical s') rfl
  rw [memoryOnlyRead_runEncode _ s (load_canonical s.mem), memoryOnlyRead_runEncode _ s' (load_canonical s'.mem)] at run
  exact .of_withMemory (load_canonical_runEncode s) (load_canonical_runEncode s') run

/-- A byte shown from stage n on and inside an extent (R24, R47). -/
theorem SameRun.shown_eq {s s' : State} (h : SameRun s s') {n : Nat} {p p' : Prop} [Decidable p] [Decidable p'] (hp : p ↔ p')
    {x y : Option Byte} (hxy : n ≤ s.stage.code → x = y) :
    (if n ≤ s.stage.code ∧ p then x else none) = if n ≤ s'.stage.code ∧ p' then y else none := by
  simp only [← h.stage, ← hp]
  exact if_ctx_congr Iff.rfl (fun hc => hxy hc.1) fun _ => rfl

/-- A result window shows a valid buffer, inside its extent (R24, R47, R69 to R71). -/
theorem SameRun.regionByte_eq {s s' : State} (h : SameRun s s') {r : Region} (hr : r ∈ [.segt, .dcw, .eccb, .cw, .mod])
    (i : Nat) : regionByte s r i = regionByte s' r i := by
  have hecc : eccOf s = eccOf s' := by rw [eccOf, eccOf, h.ver, h.level]
  simp only [List.mem_cons, List.not_mem_nil, or_false] at hr
  rcases hr with rfl | rfl | rfl | rfl | rfl
  case inl => exact h.shown_eq (by rw [h.nseg]) fun h1 => by rw [h.segmented h1]
  case inr.inl => exact h.shown_eq (by rw [h.dlen]) fun h3 => by rw [h.packed h3]
  case inr.inr.inl => exact h.shown_eq (by rw [h.nblk, hecc]) fun h4 => by rw [(h.coded h4).1]
  case inr.inr.inr.inl => exact h.shown_eq (by rw [h.clen]) fun h4 => by rw [(h.coded h4).2]
  case inr.inr.inr.inr => exact h.shown_eq (by rw [h.side]) fun h5 => by rw [h.built h5]

theorem SameRun.windowByte_eq {s s' : State} (h : SameRun s s') {a : Nat}
    (ha : region a ∈ [some .segt, some .dcw, some .eccb, some .cw, some .mod]) : windowByte s a = windowByte s' a := by
  obtain ⟨r, hr, hreg⟩ := List.mem_map.1 (show region a ∈ [Region.segt, .dcw, .eccb, .cw, .mod].map some from ha)
  obtain ⟨row, hrow, rfl⟩ := Option.map_eq_some_iff.1 hreg.symm
  rw [windowByte, windowByte, hrow]
  exact h.regionByte_eq hr _

/-- Settles O47: the run goes alike from both states, and the result windows show only what is alike. -/
theorem encodeIsDeterministic : Obligations.EncodeIsDeterministic := by
  rintro s s' _ _ hlevel hfver htlen htext ⟨⟩ ⟨⟩
  have h := sameRun_runEncode hlevel hfver htlen htext
  exact ⟨h.stage, h.errcode, h.errinfo, h.ver, h.side, h.mask, h.nseg, h.bitlen, h.dlen, h.clen, h.nblk, h.scores,
    fun _ => h.windowByte_eq⟩

end Sys2Proof.Machine
end
